-- ==== Sys2Proof/Word.lean ====
section
/-! DEFINITION. The two widths of the hardware: words of 32 bits and key bytes of 8 bits (00_scope.md R6, R7). -/

namespace Sys2Proof

/-- A word, "a 32-bit unsigned integer, the cipher's native arithmetic unit" (00_scope.md R7). -/
abbrev Word := BitVec 32

/-- A key byte, an "unsigned 8-bit" value (10_state.md R32). -/
abbrev Byte := BitVec 8

end Sys2Proof
end

