-- ==== Sys2Proof/Config.lean ====
section
/-! DEFINITION. What an implementation fixes (00_scope.md R6) and the free values: values the spec calls "any value".
A free value is an `opaque` constant without a body, so no proof can rest on what it is. -/

namespace Sys2Proof

/-- The capacity `BMAX` of the key buffer in bytes: "a multiple of 4, at least 4, or unbounded" (00_scope.md R6,
92_eei_decisions.md D6). The constraint on `bytes` is `Capacity.wellFormed`. -/
inductive Capacity where
  /-- No bound: `ResourceError` never occurs (20_memory.md R58). -/
  | unbounded
  /-- `BMAX = n`. -/
  | bytes (n : Nat)
deriving DecidableEq, Repr

namespace Config

/-- `R`, the round count (00_scope.md R6). -/
abbrev rounds : Nat := 20

/-- `SW`, the length of the subkey array, `2r + 4` (00_scope.md R6, 10_state.md R34, 90_conflicts.md C1). -/
abbrev subkeyCount : Nat := 44

/-- `P32`, the first subkey seed (00_scope.md R6, 41_keysched.md R123). -/
def p32 : Word := 0xB7E15163#32

/-- `Q32`, the subkey seed increment (00_scope.md R6, 41_keysched.md R123). -/
def q32 : Word := 0x9E3779B9#32

/-- The capacity the reset state carries. DESIGN CHOICE (entry 6): the spec leaves `BMAX` open. Every meaning reads
the capacity from its state, so a statement over all states holds for every capacity. -/
def bmax : Capacity := .bytes 256

/-- The window base the reset state carries. DESIGN CHOICE (entry 7): the spec leaves `BASE` open. -/
def base : Nat := 0

/-- FREE VALUE (entries 1, 2): what data register number `k` holds after the reset that took draw number `n`
(10_state.md R38, "unspecified: any value"). -/
opaque resetWord (n k : Nat) : Word

/-- FREE VALUE (entry 3): what key byte `i`, never written since reset, gives to the access that took draw number `n`
(10_state.md R38, 70_reset_and_hazards.md R196). -/
opaque unwrittenByte (n i : Nat) : Byte

/-- FREE VALUE (entry 4): what a host read of `S[i]` that took draw number `n` answers while `SVALID = 0`
(20_memory.md R59). -/
opaque invalidSubkey (n i : Nat) : Word

end Config

end Sys2Proof
end

