-- ==== Sys2Proof/Syntax.lean ====
section
/-! DEFINITION. The commands, one constructor per row of spec/opcode_table.json (30_encoding.md R81). -/

namespace Sys2Proof

/-- A command. No command has an operand field, a register field or an immediate: "every command takes its operands
from fixed registers and arrays" (30_encoding.md R80). -/
inductive Instr where
  /-- Expand the key into the subkeys (41_keysched.md R120). -/
  | keyexp
  /-- Forward transform of the block (42_block.md R141). -/
  | encrypt
  /-- Inverse transform of the block (42_block.md R142). -/
  | decrypt
  /-- Rotate `A` left by `B` (40_primitives.md R109). -/
  | rotl
  /-- Rotate `A` right by `B` (40_primitives.md R110). -/
  | rotr
deriving DecidableEq, Repr

end Sys2Proof
end

