-- ==== Sys2Proof/WellFormed.lean ====
section
/-! DEFINITION. Well-formedness of what is written down outside the machine: commands and the parameter `BMAX`.
Well-formed host accesses are `HostEvent.wellFormed` (Safety.lean), since they depend on the window's map. -/

namespace Sys2Proof

/-- Every command is well-formed: the command word has no operand fields that could be out of range
(30_encoding.md R80, R85, R86). -/
def Instr.wellFormed : Instr → Bool
  | .keyexp => true
  | .encrypt => true
  | .decrypt => true
  | .rotl => true
  | .rotr => true

/-- `BMAX` is "a multiple of 4, at least 4, or unbounded" (00_scope.md R6). -/
def Capacity.wellFormed : Capacity → Bool
  | .unbounded => true
  | .bytes n => n % 4 == 0 && 4 ≤ n

end Sys2Proof
end

