-- ==== Sys2Proof/Decode.lean ====
section
/-! DEFINITION. The decoder of a command word, total on all 32-bit words, and the encoder (30_encoding.md R80 to R83). -/

namespace Sys2Proof

/-- Why a word is no command. -/
inductive DecodeError where
  /-- The word is not one of the five of 30_encoding.md R81; a `CMD` write of it raises `IllegalCommand` (R83). -/
  | illegalCommand (word : Word)
deriving DecidableEq, Repr

/-- One row of the opcode map: a word is the row's command when it equals `pattern` under `mask`. -/
structure OpcodeRow where
  instr : Instr
  pattern : Word
  mask : Word
deriving DecidableEq, Repr

/-- The opcode map: "A decoder compares the whole word: match value as listed, mask `0xFFFFFFFF`"
(30_encoding.md R81). -/
def opcodeMap : List OpcodeRow :=
  [ ⟨.keyexp, 0x00000001#32, 0xFFFFFFFF#32⟩,
    ⟨.encrypt, 0x00000002#32, 0xFFFFFFFF#32⟩,
    ⟨.decrypt, 0x00000003#32, 0xFFFFFFFF#32⟩,
    ⟨.rotl, 0x00000004#32, 0xFFFFFFFF#32⟩,
    ⟨.rotr, 0x00000005#32, 0xFFFFFFFF#32⟩ ]

/-- Does a word select this row? -/
def OpcodeRow.selects (r : OpcodeRow) (w : Word) : Bool :=
  (w &&& r.mask) == r.pattern

/-- The command a `CMD` word encodes, or the refusal of the word (30_encoding.md R81, R83). -/
def decode (w : Word) : Except DecodeError Instr :=
  match opcodeMap.find? (fun r => r.selects w) with
  | some r => .ok r.instr
  | none => .error (.illegalCommand w)

/-- `GRP`, the operation group of a command: key schedule, block transform, rotate primitive (30_encoding.md R80). -/
def Instr.group : Instr → BitVec 7
  | .keyexp => 0b0000000#7
  | .encrypt => 0b0000001#7
  | .decrypt => 0b0000001#7
  | .rotl => 0b0000010#7
  | .rotr => 0b0000010#7

/-- `DIR`, the direction inside the group: 0 forward or left, 1 inverse or right; in the key-schedule group only 1
is defined (30_encoding.md R82). -/
def Instr.direction : Instr → BitVec 1
  | .keyexp => 1#1
  | .encrypt => 0#1
  | .decrypt => 1#1
  | .rotl => 0#1
  | .rotr => 1#1

/-- The command word: `ZERO || GRP || DIR`, bits 31:8, 7:1 and 0 (30_encoding.md R80). -/
def encode (i : Instr) : Word :=
  (0#24 ++ i.group ++ i.direction).setWidth 32

/-- What the decoder reads from an instruction of `nbits` bits whose bits are `w`. A command is one 32-bit word
(30_encoding.md R80), so bits above `nbits` are 0 and a longer pattern is no command. -/
def decodeTableWord (nbits w : Nat) : Option Instr :=
  if w % 2 ^ nbits < 2 ^ 32 then
    match decode (BitVec.ofNat 32 (w % 2 ^ nbits)) with
    | .ok i => some i
    | .error _ => none
  else none

end Sys2Proof
end

