-- ==== Sys2Proof/Machine/State.lean ====
section
/-! DEFINITION. The state of the block (10_state.md R20), what the host can do to it (20_memory.md R55, R57), the
reasons a step can stop, and the state after reset (10_state.md R38). -/

namespace Sys2Proof.Machine

/-- The bytes of `KEY` that have been written since reset, as (index, byte) pairs with strictly rising indices
(`Memory.wf`). An index that is not listed holds no value of its own (entry 3). -/
abbrev Memory := List Host.Cell

/-- The subkey array `S`, exactly `SW = 2r + 4 = 44` words (10_state.md R34, 90_conflicts.md C1). -/
abbrev Subkeys := Vector Word 44

/-- The four block registers in their order `A`, `B`, `C`, `D` (10_state.md R21). -/
structure Block where
  a : Word
  b : Word
  c : Word
  d : Word
deriving DecidableEq, Repr

/-- The registers of the host port (20_memory.md R55, R57). -/
inductive HostReg where
  | cmd
  | status
  | klen
  | a
  | b
  | c
  | d
  /-- `S[i]`. -/
  | subkey (i : Fin 44)
  /-- `KEY[n]`; whether it exists depends on `BMAX`. -/
  | key (n : Nat)
deriving DecidableEq, Repr

/-- One thing the outside world does to the block: a bus access at an address, of a width in bits (the columns of
95_test_vectors.md section 3), or a reset (70_reset_and_hazards.md R190). -/
inductive HostEvent where
  | write (addr width : Nat) (value : BitVec width)
  | read (addr width : Nat)
  | reset
deriving DecidableEq, Repr

/-- What a host read answers: a word, or a byte for `KEY[n]` (20_memory.md R54, R55). -/
inductive Datum where
  | word (v : Word)
  | byte (v : Byte)
deriving DecidableEq, Repr

/-- The direction of a block transform the sequencer is running. -/
inductive Direction where
  | forward
  | inverse
deriving DecidableEq, Repr

/-- The sequencer `SEQ`: the phase and, in each phase, the counters that phase uses (10_state.md R25). That the block
phases also say which transform is running is the model's addition (entry 10). -/
inductive Seq where
  | idle
  /-- `PACK`: the next key word to pack. -/
  | pack (k : Nat)
  /-- `INIT`: the next subkey to initialise. -/
  | init (i : Nat)
  /-- `MIX`: the iteration count `k` and the indices `i` into `S`, `j` into `L`. -/
  | mix (k i j : Nat)
  /-- `PRE`: the first pair of whitening lines. -/
  | pre (dir : Direction)
  /-- `ROUND`: the round number, 1 to 20. -/
  | round (dir : Direction) (i : Nat)
  /-- `POST`: the last pair of whitening lines. -/
  | post (dir : Direction)
deriving DecidableEq, Repr

/-- The state: the whole table of 10_state.md R20, the two parameters of 00_scope.md R6, and three fields of the
model's own (`pending`, `returned`, `draws`; entries 8, 9, 5). `CMD` holds nothing and has no field (R28). -/
structure State where
  /-- Block register `A`. -/
  a : Word
  /-- Block register `B`. -/
  b : Word
  /-- Block register `C`. -/
  c : Word
  /-- Block register `D`. -/
  d : Word
  /-- Key-schedule accumulator `KA`. -/
  ka : Word
  /-- Key-schedule accumulator `KB`. -/
  kb : Word
  /-- Key byte buffer `KEY`. -/
  key : Memory
  /-- Key length register `KLEN`, in bytes. -/
  klen : Word
  /-- Key word count `LW` latched by `KEYEXP`. -/
  lw : Word
  /-- Key word array `L`, as far as `KEYEXP` has written it since reset. -/
  keyWords : List Word
  /-- Subkey array `S`. -/
  subkeys : Subkeys
  /-- `STATUS.SVALID`. -/
  svalid : Bool
  /-- `STATUS.ERR`. -/
  err : BitVec 4
  /-- Sequencer `SEQ`. -/
  seq : Seq
  /-- Parameter `BMAX`, fixed through a run. -/
  bmax : Capacity
  /-- Parameter `BASE`, fixed through a run. -/
  base : Nat
  /-- MODEL'S OWN: the accesses the host has yet to make, oldest first. -/
  pending : List HostEvent
  /-- MODEL'S OWN: what the latest host read answered. -/
  returned : Option Datum
  /-- MODEL'S OWN: the number of the next draw of free values. -/
  draws : Nat
deriving DecidableEq, Repr

/-- Why the machine stops. No fault of the SPEC is here: its four faults leave a code in `STATUS.ERR` and the machine
goes on (60_exceptions.md R168), so each is a next state (entry 12). -/
inductive Fault where
  /-- Raised by a step whose host access is at an address 20_memory.md R57 does not list ("has no meaning in this
  spec", R54). Safe: the model stops where the spec says nothing happens that has a meaning (entry 13). -/
  | unmappedAddress (addr : Nat)
deriving DecidableEq, Repr

/-- Why an instruction or an access has no meaning here. -/
inductive Refusal where
  /-- Raised by `exec` for a command without a meaning. No arm raises it. Safe. -/
  | notModelled (mnemonic : String)
  /-- Raised by a step whose host access to a mapped register has another width than the register's ("a model refuses
  it", 20_memory.md R54). Safe (entry 14). -/
  | wrongWidth (reg : HostReg) (width : Nat)
deriving DecidableEq, Repr

/-- The state a reset leaves (10_state.md R38, 70_reset_and_hazards.md R190): control state as the spec says, all data
state any value, drawn under number `n` (entries 1, 2, 3). The parameters, the host's remaining accesses and the value
it has already been given are not the block's to change (entry 11). -/
def State.afterReset (bmax : Capacity) (base : Nat) (pending : List HostEvent) (returned : Option Datum) (n : Nat) :
    State where
  a := Config.resetWord n 0
  b := Config.resetWord n 1
  c := Config.resetWord n 2
  d := Config.resetWord n 3
  ka := Config.resetWord n 4
  kb := Config.resetWord n 5
  key := []
  klen := 0#32
  lw := Config.resetWord n 6
  keyWords := []
  subkeys := Vector.ofFn fun i => Config.resetWord n (7 + i.val)
  svalid := false
  err := 0#4
  seq := .idle
  bmax := bmax
  base := base
  pending := pending
  returned := returned
  draws := n + 1

/-- The machine right after power-on reset: `afterReset` under draw number 0, with no host access pending. -/
def State.reset : State :=
  State.afterReset Config.bmax Config.base [] none 0

end Sys2Proof.Machine
end

