-- ==== Sys2Proof/Machine/Arith.lean ====
section
/-! DEFINITION. The word functions of 40_primitives.md R100 to R107. All are total and wrap; none sets a flag or
faults (R108, 10_state.md R27). -/

namespace Sys2Proof.Machine

/-- `(x + y) mod 2^32` (40_primitives.md R100). -/
def add32 (x y : Word) : Word := x + y

/-- `(x - y) mod 2^32` (40_primitives.md R101). -/
def sub32 (x y : Word) : Word := x - y

/-- The low 32 bits of the product (40_primitives.md R102). -/
def mul32 (x y : Word) : Word := x * y

/-- Bitwise exclusive or (40_primitives.md R103). -/
def xor32 (x y : Word) : Word := x ^^^ y

/-- A rotation amount: the low five bits of the rotation-control operand, `ctl[4:0] = ctl mod 32`
(30_encoding.md R85 b, 40_primitives.md R104). -/
def rotationAmount (ctl : Word) : Nat := ctl.toNat % 32

/-- `val` rotated left by `amount mod 32`; an amount of 0 is the identity (40_primitives.md R104). -/
def rotl32 (val amount : Word) : Word := val.rotateLeft (rotationAmount amount)

/-- `val` rotated right by `amount mod 32`; an amount of 0 is the identity (40_primitives.md R105). -/
def rotr32 (val amount : Word) : Word := val.rotateRight (rotationAmount amount)

/-- The quadratic function of the round, `x * (2x + 1)` rotated left by the constant 5 (40_primitives.md R107). -/
def quad5 (x : Word) : Word := rotl32 (mul32 x (add32 (add32 x x) 1#32)) 5#32

end Sys2Proof.Machine
end

