-- ==== Sys2Proof/Machine/Operands.lean ====
section
/-! DEFINITION. How commands get at their operands (30_encoding.md R85): key bytes, key words, subkeys by index, and
the block. A command word carries no operand. -/

namespace Sys2Proof.Machine

/-- The byte listed at an index of `KEY`, if one has been written since reset. -/
def Memory.read? : Memory → Nat → Option Byte
  | [], _ => none
  | (k, v) :: m, n => if k = n then some v else Memory.read? m n

/-- Write one byte of `KEY`; the indices stay strictly rising. -/
def Memory.write : Memory → Nat → Byte → Memory
  | [], n, v => [(n, v)]
  | (k, w) :: m, n, v =>
    if n < k then (n, v) :: (k, w) :: m
    else if n = k then (n, v) :: m
    else (k, w) :: Memory.write m n v

/-- The one form a memory is held in: indices strictly rising, so that equal memories are equal lists. What an index
that is not listed reads as is no stored value (entry 3), so no entry can repeat it. -/
abbrev Memory.wf (m : Memory) : Prop := m.Pairwise fun x y => x.1 < y.1

/-- `KEY[n]` as an access that takes the present draw sees it: the byte written last, and any value where nothing has
been written since reset (20_memory.md R55, 70_reset_and_hazards.md R196; entry 3). -/
def State.keyByte (s : State) (n : Nat) : Byte :=
  match Memory.read? s.key n with
  | some v => v
  | none => Config.unwrittenByte s.draws n

/-- Four key bytes packed little-endian into a key word: the first is bits 7:0, the last bits 31:24
(20_memory.md R50). -/
def packWord (b0 b1 b2 b3 : Byte) : Word := b3 ++ b2 ++ b1 ++ b0

/-- The key word `L[k]` that `KEY[4k] .. KEY[4k+3]` pack into (41_keysched.md R122). -/
def State.packedWord (s : State) (k : Nat) : Word :=
  packWord (s.keyByte (4 * k)) (s.keyByte (4 * k + 1)) (s.keyByte (4 * k + 2)) (s.keyByte (4 * k + 3))

/-- `S[i]`. No rule forms an index above 43 (20_memory.md R64). -/
def subkeyAt (S : Subkeys) (i : Nat) : Word := S.getD i 0#32

/-- `S[i] <- v`. -/
def setSubkey (S : Subkeys) (i : Nat) (v : Word) : Subkeys := S.setIfInBounds i v

/-- `L[j]`. No rule reads an index at or above `LW` (20_memory.md R64). -/
def keyWordAt (L : List Word) (j : Nat) : Word := L.getD j 0#32

/-- `L[j] <- v` where `L` already reaches beyond `j`. -/
def setKeyWord (L : List Word) (j : Nat) (v : Word) : List Word := L.set j v

/-- `LW = b / 4`, the number of key words of a key of `KLEN` bytes (41_keysched.md R121). -/
def keyWordCount (klen : Word) : Nat := klen.toNat / 4

/-- `v = 3 * max(LW, 44)`, the number of mixing iterations (41_keysched.md R124). -/
def mixCount (lw : Nat) : Nat := 3 * max lw 44

/-- Does a buffer of this capacity hold a key of `b` bytes (`b <= BMAX`, 41_keysched.md R121)? -/
def Capacity.fits : Capacity → Nat → Bool
  | .unbounded, _ => true
  | .bytes m, b => decide (b ≤ m)

/-- Is `n` an index of `KEY` (`n < BMAX`, 20_memory.md R57)? -/
def Capacity.indexes : Capacity → Nat → Bool
  | .unbounded, _ => true
  | .bytes m, n => decide (n < m)

/-- The four block registers. -/
def State.block (s : State) : Block := ⟨s.a, s.b, s.c, s.d⟩

/-- Write all four block registers. -/
def State.setBlock (s : State) (x : Block) : State := { s with a := x.a, b := x.b, c := x.c, d := x.d }

end Sys2Proof.Machine
end

