-- ==== Sys2Proof/Machine/Flags.lean ====
section
/-! DEFINITION. The two status items `SVALID` and `ERR` and the word they make up (10_state.md R26, R29). There are no
arithmetic flags (R27). -/

namespace Sys2Proof.Machine

/-- The four faults a command can raise (60_exceptions.md R160). -/
inductive Cause where
  | invalidKeyLength
  | resourceError
  | subkeysNotReady
  | illegalCommand
deriving DecidableEq, Repr

/-- The code a fault leaves in `STATUS.ERR` (60_exceptions.md R160). -/
def faultCode : Cause → BitVec 4
  | .invalidKeyLength => 1#4
  | .resourceError => 2#4
  | .subkeysNotReady => 3#4
  | .illegalCommand => 4#4

/-- `STATUS.SVALID` after a fault: the two `KEYEXP` faults clear it, the others leave it (60_exceptions.md R168). -/
def svalidAfterFault (c : Cause) (svalid : Bool) : Bool :=
  match c with
  | .invalidKeyLength => false
  | .resourceError => false
  | .subkeysNotReady => svalid
  | .illegalCommand => svalid

/-- The word `STATUS` reads as: `SVALID` in bit 0, `ERR` in bits 7:4, every other bit 0 (10_state.md R29). -/
def State.statusWord (s : State) : Word :=
  (0#24 ++ s.err ++ 0#3 ++ BitVec.ofBool s.svalid).setWidth 32

/-- A successful `KEYEXP`: `SVALID <- 1`, `ERR <- 0` (41_keysched.md R125). -/
def State.completeKeyexp (s : State) : State := { s with svalid := true, err := 0#4 }

/-- A transform that runs to its end: `SVALID <- 0`, `ERR <- 0` (42_block.md R144). -/
def State.completeTransform (s : State) : State := { s with svalid := false, err := 0#4 }

/-- A rotate command: `ERR <- 0`, `SVALID` unchanged (40_primitives.md R109, R110). -/
def State.completeRotate (s : State) : State := { s with err := 0#4 }

end Sys2Proof.Machine
end

