-- ==== Sys2Proof/Machine/Ops.lean ====
section
/-! DEFINITION. The shared operations: raising a fault, the window's map, and one host read or write of a register
other than `CMD`. -/

namespace Sys2Proof.Machine

/-- `raise <Fault>`: the whole effect of a fault is its code in `STATUS.ERR`, with `SVALID` cleared for the two
`KEYEXP` faults (60_exceptions.md R168). Nothing is saved and control goes nowhere, so there is no return operation:
the next command overwrites `ERR` (R169). -/
def State.raiseFault (s : State) (c : Cause) : State :=
  { s with err := faultCode c, svalid := svalidAfterFault c s.svalid }

/-- The byte offset of a register in the window (20_memory.md R57). -/
def HostReg.offset : HostReg → Nat
  | .cmd => 0x000
  | .status => 0x004
  | .klen => 0x008
  | .a => 0x010
  | .b => 0x014
  | .c => 0x018
  | .d => 0x01C
  | .subkey i => 0x100 + 4 * i.val
  | .key n => 0x1000 + n

/-- The width in bits in which a register is accessed, "and in no other width" (20_memory.md R54, R57). -/
def HostReg.width : HostReg → Nat
  | .cmd => 32
  | .status => 32
  | .klen => 32
  | .a => 32
  | .b => 32
  | .c => 32
  | .d => 32
  | .subkey _ => 32
  | .key _ => 8

/-- Does a block of this capacity have the register? All but `KEY[n]` with `n >= BMAX` (20_memory.md R57). -/
def HostReg.present (cap : Capacity) : HostReg → Bool
  | .cmd => true
  | .status => true
  | .klen => true
  | .a => true
  | .b => true
  | .c => true
  | .d => true
  | .subkey _ => true
  | .key n => Capacity.indexes cap n

/-- The register at a byte offset of the window; every offset not listed is unmapped (20_memory.md R57). -/
def regAtOffset (cap : Capacity) (off : Nat) : Option HostReg :=
  if off = 0x000 then some .cmd
  else if off = 0x004 then some .status
  else if off = 0x008 then some .klen
  else if off = 0x010 then some .a
  else if off = 0x014 then some .b
  else if off = 0x018 then some .c
  else if off = 0x01C then some .d
  else if h : 0x100 ≤ off ∧ off ≤ 0x1AC ∧ off % 4 = 0 then
    some (.subkey ⟨(off - 0x100) / 4, by omega⟩)
  else if 0x1000 ≤ off ∧ Capacity.indexes cap (off - 0x1000) then some (.key (off - 0x1000))
  else none

/-- The register at an address: the window starts at `BASE` (20_memory.md R57). -/
def regAtAddress (cap : Capacity) (base addr : Nat) : Option HostReg :=
  if base ≤ addr then regAtOffset cap (addr - base) else none

/-- `HostWrite(reg, v)` of every register but `CMD` (20_memory.md R55). A write of `STATUS` or `S[i]` is ignored; a
`CMD` write runs a command and is `commandWrite` (HostPort.lean), so this operation does nothing for it. -/
def State.hostWriteData (s : State) (r : HostReg) (v : Word) : State :=
  match r with
  | .cmd => s
  | .status => s
  | .klen => { s with klen := v }
  | .a => { s with a := v }
  | .b => { s with b := v }
  | .c => { s with c := v }
  | .d => { s with d := v }
  | .subkey _ => s
  | .key n => { s with key := Memory.write s.key n (v.setWidth 8) }

/-- The value `HostRead(reg)` returns (20_memory.md R55): the register's current value, 0 for `CMD`, and any value for
`S[i]` while `SVALID = 0` (R59; entry 4). -/
def State.hostReadValue (s : State) (r : HostReg) : Datum :=
  match r with
  | .cmd => .word 0#32
  | .status => .word s.statusWord
  | .klen => .word s.klen
  | .a => .word s.a
  | .b => .word s.b
  | .c => .word s.c
  | .d => .word s.d
  | .subkey i => .word (if s.svalid then subkeyAt s.subkeys i.val else Config.invalidSubkey s.draws i.val)
  | .key n => .byte (s.keyByte n)

/-- `HostRead(reg)`: the host is given the value; no register changes (20_memory.md R56). The read takes one draw
number, so that a later read of unspecified data is free to answer otherwise (entry 5). -/
def State.hostRead (s : State) (r : HostReg) : State :=
  { s with returned := some (s.hostReadValue r), draws := s.draws + 1 }

end Sys2Proof.Machine
end

