-- ==== Sys2Proof/Machine/KeySchedule.lean ====
section
/-! DEFINITION. The Key Scheduler: the command `KEYEXP` (41_keysched.md R120 to R130). -/

namespace Sys2Proof.Machine

/-- The check of the key length, in the order zero, multiple of 4, capacity: the fault it raises, or none
(41_keysched.md R121, 60_exceptions.md R167). -/
def keyLengthFault (s : State) : Option Cause :=
  if s.klen = 0#32 then some .invalidKeyLength
  else if s.klen.toNat % 4 ≠ 0 then some .invalidKeyLength
  else if Capacity.fits s.bmax s.klen.toNat then none
  else some .resourceError

/-- Step 2: `L[0 .. LW-1]` packed from `KEY`; elements at `LW` and above keep what they held (41_keysched.md R122). -/
def packKey (s : State) (lw : Nat) : List Word :=
  (List.range lw).map s.packedWord ++ s.keyWords.drop lw

/-- Step 3: `S[0] = P32`, `S[i] = S[i-1] + Q32` (41_keysched.md R123). -/
def initialSubkey : Nat → Word
  | 0 => Config.p32
  | i + 1 => add32 (initialSubkey i) Config.q32

/-- The subkey array before mixing, the same for every key (41_keysched.md R123). -/
def initialSubkeys : Subkeys := Vector.ofFn fun i => initialSubkey i.val

/-- What a mixing iteration works on: `S`, `L`, `KA`, `KB` and the indices `i`, `j` (41_keysched.md R124). -/
structure Mix where
  subkeys : Subkeys
  keyWords : List Word
  ka : Word
  kb : Word
  i : Nat
  j : Nat
deriving DecidableEq, Repr

/-- One mixing iteration (41_keysched.md R124): the new `KA` forms both the addend and the rotation control of the
line for `KB`, with the `KB` of before the line (20_memory.md R62). -/
def mixIteration (lw : Nat) (m : Mix) : Mix :=
  let ka := rotl32 (add32 (add32 (subkeyAt m.subkeys m.i) m.ka) m.kb) 3#32
  let kb := rotl32 (add32 (add32 (keyWordAt m.keyWords m.j) ka) m.kb) (add32 ka m.kb)
  { subkeys := setSubkey m.subkeys m.i ka
    keyWords := setKeyWord m.keyWords m.j kb
    ka := ka
    kb := kb
    i := (m.i + 1) % 44
    j := (m.j + 1) % lw }

/-- `n` mixing iterations one after another. -/
def mixIterations (lw : Nat) : Nat → Mix → Mix
  | 0, m => m
  | n + 1, m => mixIterations lw n (mixIteration lw m)

/-- The start of step 4: `KA`, `KB`, `i` and `j` are 0 (41_keysched.md R124). -/
def mixStart (subkeys : Subkeys) (keyWords : List Word) : Mix :=
  { subkeys := subkeys, keyWords := keyWords, ka := 0#32, kb := 0#32, i := 0, j := 0 }

/-- Steps 2 to 4 for a key of `lw` words. -/
def expandKey (s : State) (lw : Nat) : Mix :=
  mixIterations lw (mixCount lw) (mixStart initialSubkeys (packKey s lw))

/-- `KEYEXP` (41_keysched.md R120): validate, pack, initialise, mix, complete. The key bytes that were never written
are drawn under one draw number, which the command takes (entries 3, 5). -/
def execKeyexp (s : State) : Host.Outcome State Fault Refusal :=
  match keyLengthFault s with
  | some c => .next (s.raiseFault c)
  | none =>
    let lw := keyWordCount s.klen
    let m := expandKey s lw
    .next (State.completeKeyexp
      { s with
        lw := BitVec.ofNat 32 lw
        keyWords := m.keyWords
        subkeys := m.subkeys
        ka := m.ka
        kb := m.kb
        draws := s.draws + 1 })

end Sys2Proof.Machine
end

