-- ==== Sys2Proof/Machine/Rotate.lean ====
section
/-! DEFINITION. The rotate commands `ROTL` and `ROTR` (40_primitives.md R109, R110). They need no key and raise
nothing. -/

namespace Sys2Proof.Machine

/-- `ROTL`: `A <- rotl32(A, B)`, `ERR <- 0` (40_primitives.md R109). -/
def execRotl (s : State) : Host.Outcome State Fault Refusal :=
  .next (State.completeRotate { s with a := rotl32 s.a s.b })

/-- `ROTR`: `A <- rotr32(A, B)`, `ERR <- 0` (40_primitives.md R110). -/
def execRotr (s : State) : Host.Outcome State Fault Refusal :=
  .next (State.completeRotate { s with a := rotr32 s.a s.b })

end Sys2Proof.Machine
end

