-- ==== Sys2Proof/Machine/Transform.lean ====
section
/-! DEFINITION. The Block Transform: the commands `ENCRYPT` and `DECRYPT` (42_block.md R140 to R147). -/

namespace Sys2Proof.Machine

/-- Pre-whitening: `S[0]` into `B`, `S[1]` into `D` (42_block.md R141). -/
def preWhiten (S : Subkeys) (x : Block) : Block :=
  { x with b := add32 x.b (subkeyAt S 0), d := add32 x.d (subkeyAt S 1) }

/-- Forward round `i`: `t` and `u` from the `B` and `D` of the start of the round, `A` masked by `t` and rotated by
`u`, `C` the other way round, then the parallel move `(A,B,C,D) <- (B,C,D,A)` (42_block.md R141). -/
def forwardRound (S : Subkeys) (i : Nat) (x : Block) : Block :=
  let t := quad5 x.b
  let u := quad5 x.d
  let a := add32 (rotl32 (xor32 x.a t) u) (subkeyAt S (2 * i))
  let c := add32 (rotl32 (xor32 x.c u) t) (subkeyAt S (2 * i + 1))
  { a := x.b, b := c, c := x.d, d := a }

/-- Forward rounds 1 to `n`, ascending. -/
def forwardRounds (S : Subkeys) : Nat → Block → Block
  | 0, x => x
  | n + 1, x => forwardRound S (n + 1) (forwardRounds S n x)

/-- Post-whitening: `S[2r+2]` into `A`, `S[2r+3]` into `C` (42_block.md R141). -/
def postWhiten (S : Subkeys) (x : Block) : Block :=
  { x with a := add32 x.a (subkeyAt S 42), c := add32 x.c (subkeyAt S 43) }

/-- The forward transform of a block under a subkey array (42_block.md R141). -/
def encryptBlock (S : Subkeys) (x : Block) : Block :=
  postWhiten S (forwardRounds S 20 (preWhiten S x))

/-- Undoing the post-whitening (42_block.md R142). -/
def undoPostWhiten (S : Subkeys) (x : Block) : Block :=
  { x with c := sub32 x.c (subkeyAt S 43), a := sub32 x.a (subkeyAt S 42) }

/-- Inverse round `i`: the move `(A,B,C,D) <- (D,A,B,C)` first, then `u` and `t` from the `D` and `B` it put in place,
the subkey subtracted, the result rotated right, the mask applied last (42_block.md R142). -/
def inverseRound (S : Subkeys) (i : Nat) (x : Block) : Block :=
  let y : Block := { a := x.d, b := x.a, c := x.b, d := x.c }
  let u := quad5 y.d
  let t := quad5 y.b
  let c := xor32 (rotr32 (sub32 y.c (subkeyAt S (2 * i + 1))) t) u
  let a := xor32 (rotr32 (sub32 y.a (subkeyAt S (2 * i))) u) t
  { a := a, b := y.b, c := c, d := y.d }

/-- Inverse rounds `n` down to 1. -/
def inverseRounds (S : Subkeys) : Nat → Block → Block
  | 0, x => x
  | n + 1, x => inverseRounds S n (inverseRound S (n + 1) x)

/-- Undoing the pre-whitening (42_block.md R142). -/
def undoPreWhiten (S : Subkeys) (x : Block) : Block :=
  { x with d := sub32 x.d (subkeyAt S 1), b := sub32 x.b (subkeyAt S 0) }

/-- The inverse transform of a block under a subkey array (42_block.md R142). -/
def decryptBlock (S : Subkeys) (x : Block) : Block :=
  undoPreWhiten S (inverseRounds S 20 (undoPostWhiten S x))

/-- What `ENCRYPT` and `DECRYPT` have in common: the test of `SVALID`, the transform, completion, which discards the
subkeys by clearing `SVALID` (42_block.md R140, R144). -/
def State.runTransform (s : State) (f : Subkeys → Block → Block) : State :=
  if s.svalid then (s.setBlock (f s.subkeys s.block)).completeTransform
  else s.raiseFault .subkeysNotReady

/-- `ENCRYPT` (42_block.md R141). -/
def execEncrypt (s : State) : Host.Outcome State Fault Refusal :=
  .next (s.runTransform encryptBlock)

/-- `DECRYPT` (42_block.md R142). -/
def execDecrypt (s : State) : Host.Outcome State Fault Refusal :=
  .next (s.runTransform decryptBlock)

end Sys2Proof.Machine
end

