-- ==== Sys2Proof/Machine/HostPort.lean ====
section
/-! DEFINITION. The host port: what one event from outside does (20_memory.md R54 to R57, 70_reset_and_hazards.md
R190). -/

namespace Sys2Proof.Machine

/-- A host write to `CMD`: decode first, then run the command to its end; a word that encodes no command raises
`IllegalCommand` (10_state.md R28, 60_exceptions.md R164, R167). -/
def commandWrite (v : Word) (s : State) : Host.Outcome State Fault Refusal :=
  match decode v with
  | .ok i => exec i s
  | .error _ => .next (s.raiseFault .illegalCommand)

/-- `HostWrite(reg, v)` (20_memory.md R55). -/
def hostWrite (r : HostReg) (v : Word) (s : State) : Host.Outcome State Fault Refusal :=
  match r with
  | .cmd => commandWrite v s
  | .status => .next (s.hostWriteData .status v)
  | .klen => .next (s.hostWriteData .klen v)
  | .a => .next (s.hostWriteData .a v)
  | .b => .next (s.hostWriteData .b v)
  | .c => .next (s.hostWriteData .c v)
  | .d => .next (s.hostWriteData .d v)
  | .subkey i => .next (s.hostWriteData (.subkey i) v)
  | .key n => .next (s.hostWriteData (.key n) v)

/-- A bus access of a width at an address: to the register there when it is of the register's width; an address that
maps to nothing and a wrong width have "no meaning in this spec" (20_memory.md R54; entries 13, 14). -/
def accessRegister (addr width : Nat) (s : State) (access : HostReg → Host.Outcome State Fault Refusal) :
    Host.Outcome State Fault Refusal :=
  match regAtAddress s.bmax s.base addr with
  | none => .fault (.unmappedAddress addr)
  | some r => if width = r.width then access r else .refused (.wrongWidth r width)

/-- What one event from outside does to the block (20_memory.md R55, 70_reset_and_hazards.md R190). The data of a byte
access travel in the low byte of a word. -/
def hostEvent (e : HostEvent) (s : State) : Host.Outcome State Fault Refusal :=
  match e with
  | .write addr width value => accessRegister addr width s fun r => hostWrite r (value.setWidth 32) s
  | .read addr width => accessRegister addr width s fun r => .next (s.hostRead r)
  | .reset => .next (State.afterReset s.bmax s.base s.pending s.returned s.draws)

end Sys2Proof.Machine
end

