-- ==== Sys2Proof/Machine/Step.lean ====
section
/-! DEFINITION. One step: the host's next access takes its whole effect, a command included (20_memory.md R61). -/

namespace Sys2Proof.Machine

/-- One step. The block has no program counter (10_state.md R25): it takes the oldest access the host has pending, and
with none pending it "does nothing" (70_reset_and_hazards.md R190; entry 15). -/
def step (s : State) : Host.Outcome State Fault Refusal :=
  match s.pending with
  | [] => .next s
  | e :: rest => hostEvent e { s with pending := rest }

/-- `s` with a write of the command word `w` to `CMD` as the host's very next access: the only way a command reaches
the block (10_state.md R28, 20_memory.md R65; entry 8). Bits of `w` above `nbits` are 0. -/
def State.withFetchWord (s : State) (nbits w : Nat) : State :=
  { s with pending := .write (s.base + HostReg.offset .cmd) 32 (BitVec.ofNat 32 (w % 2 ^ nbits)) :: s.pending }

end Sys2Proof.Machine
end

