-- ==== Sys2Proof/Machine/Script.lean ====
section
/-! DEFINITION. The script notation for host activity (30_encoding.md R87, R88): each line is one host access, each
pseudo-line a list of lines. The notation is no part of the hardware. -/

namespace Sys2Proof.Machine

/-- A script line (30_encoding.md R87). `SET` names one of `A B C D KLEN`; `GET` any register of the port. -/
inductive ScriptLine where
  | command (i : Instr)
  | cmdw (w : Word)
  | setA (v : Word)
  | setB (v : Word)
  | setC (v : Word)
  | setD (v : Word)
  | setKlen (v : Word)
  | keyb (n : Nat) (v : Byte)
  | get (r : HostReg)
deriving DecidableEq, Repr

/-- A host write of a 32-bit register. -/
def writeWord (base : Nat) (r : HostReg) (v : Word) : HostEvent := .write (base + r.offset) 32 v

/-- The host access a script line stands for (30_encoding.md R87). -/
def ScriptLine.access (base : Nat) : ScriptLine → HostEvent
  | .command i => writeWord base .cmd (encode i)
  | .cmdw w => writeWord base .cmd w
  | .setA v => writeWord base .a v
  | .setB v => writeWord base .b v
  | .setC v => writeWord base .c v
  | .setD v => writeWord base .d v
  | .setKlen v => writeWord base .klen v
  | .keyb n v => .write (base + HostReg.offset (.key n)) 8 v
  | .get r => .read (base + r.offset) r.width

/-- The accesses of a script, in order. -/
def scriptAccesses (base : Nat) (lines : List ScriptLine) : List HostEvent := lines.map (ScriptLine.access base)

/-- `KEYB n, h` for each byte of a list, from index `n` up. -/
def keyBytesFrom : Nat → List Byte → List ScriptLine
  | _, [] => []
  | n, h :: hs => .keyb n h :: keyBytesFrom (n + 1) hs

/-- `LOADKEY h0 .. h(b-1)` (30_encoding.md R88). -/
def loadKey (bytes : List Byte) : List ScriptLine :=
  keyBytesFrom 0 bytes ++ [.setKlen (BitVec.ofNat 32 bytes.length)]

/-- `LOADBLK a, b, c, d` (30_encoding.md R88). -/
def loadBlock (x : Block) : List ScriptLine := [.setA x.a, .setB x.b, .setC x.c, .setD x.d]

/-- The block printed as 16 bytes: block byte `4m + n` is bits `8n+7 : 8n` of register number `m` (20_memory.md R52).
That input follows the same convention as output is PRESUMED (entry 17). -/
def blockOfBytes (p : Fin 16 → Byte) : Block :=
  { a := p 3 ++ p 2 ++ p 1 ++ p 0
    b := p 7 ++ p 6 ++ p 5 ++ p 4
    c := p 11 ++ p 10 ++ p 9 ++ p 8
    d := p 15 ++ p 14 ++ p 13 ++ p 12 }

/-- `LOADBYTES p0 .. p15` (30_encoding.md R88). -/
def loadBytes (p : Fin 16 → Byte) : List ScriptLine := loadBlock (blockOfBytes p)

/-- `GETBLK` (30_encoding.md R88). -/
def getBlock : List ScriptLine := [.get .a, .get .b, .get .c, .get .d]

/-- `INVOKE ENCRYPT` (30_encoding.md R88). -/
def invokeEncrypt : List ScriptLine := [.command .keyexp, .command .encrypt]

/-- `INVOKE DECRYPT` (30_encoding.md R88). -/
def invokeDecrypt : List ScriptLine := [.command .keyexp, .command .decrypt]

end Sys2Proof.Machine
end

