-- ==== Sys2Proof/Machine/Sequencer.lean ====
section
/-! DEFINITION. The sequencer `SEQ` (10_state.md R25): the commands broken into the element steps their pseudocode
shows. "A model may break a command into the iterations its pseudocode shows, provided the composite equals the rule;
the intermediate states are not architectural" (00_scope.md R10). `exec` is the rule, this is the breakdown, and that
the two agree is an obligation (entry 10). -/

namespace Sys2Proof.Machine

/-- `L[k] <- v` for the next element `k` that packing fills; `L` reaches at least to `k`. -/
def packElement (L : List Word) (k : Nat) (v : Word) : List Word := L.take k ++ v :: L.drop (k + 1)

/-- The mixing registers of a state in phase `MIX`. -/
def State.mixRegisters (s : State) (i j : Nat) : Mix :=
  { subkeys := s.subkeys, keyWords := s.keyWords, ka := s.ka, kb := s.kb, i := i, j := j }

/-- Write the mixing registers back. -/
def State.setMixRegisters (s : State) (m : Mix) : State :=
  { s with subkeys := m.subkeys, keyWords := m.keyWords, ka := m.ka, kb := m.kb }

/-- The start of a command: what it checks and latches before its first element step. A command that faults, and a
rotate command, end here and leave the sequencer `IDLE`. -/
def sequencerStart (c : Instr) (s : State) : State :=
  match c with
  | .keyexp =>
    match keyLengthFault s with
    | some f => s.raiseFault f
    | none => { s with lw := BitVec.ofNat 32 (keyWordCount s.klen), seq := .pack 0 }
  | .encrypt => if s.svalid then { s with seq := .pre .forward } else s.raiseFault .subkeysNotReady
  | .decrypt => if s.svalid then { s with seq := .pre .inverse } else s.raiseFault .subkeysNotReady
  | .rotl => State.completeRotate { s with a := rotl32 s.a s.b }
  | .rotr => State.completeRotate { s with a := rotr32 s.a s.b }

/-- One packing step (41_keysched.md R122); after the last one `S[0] <- P32`. -/
def packStep (k : Nat) (s : State) : State :=
  let t := { s with keyWords := packElement s.keyWords k (s.packedWord k) }
  if k + 1 < s.lw.toNat then { t with seq := .pack (k + 1) }
  else { t with subkeys := setSubkey s.subkeys 0 Config.p32, seq := .init 1 }

/-- One initialisation step (41_keysched.md R123); after the last one `KA`, `KB`, `i`, `j` are 0. -/
def initStep (i : Nat) (s : State) : State :=
  let t := { s with subkeys := setSubkey s.subkeys i (add32 (subkeyAt s.subkeys (i - 1)) Config.q32) }
  if i < 43 then { t with seq := .init (i + 1) }
  else { t with ka := 0#32, kb := 0#32, seq := .mix 0 0 0 }

/-- One mixing step (41_keysched.md R124); after the last one the command completes (R125). -/
def mixStep (k i j : Nat) (s : State) : State :=
  let m := mixIteration s.lw.toNat (s.mixRegisters i j)
  let t := s.setMixRegisters m
  if k + 1 < mixCount s.lw.toNat then { t with seq := .mix (k + 1) m.i m.j }
  else State.completeKeyexp { t with seq := .idle, draws := s.draws + 1 }

/-- The first pair of whitening lines of a transform (42_block.md R141, R142). -/
def preStep (dir : Direction) (s : State) : State :=
  match dir with
  | .forward => { s.setBlock (preWhiten s.subkeys s.block) with seq := .round .forward 1 }
  | .inverse => { s.setBlock (undoPostWhiten s.subkeys s.block) with seq := .round .inverse 20 }

/-- One round of a transform: 1 up to 20 forward, 20 down to 1 inverse (10_state.md R25). -/
def roundStep (dir : Direction) (i : Nat) (s : State) : State :=
  match dir with
  | .forward =>
    let t := s.setBlock (forwardRound s.subkeys i s.block)
    if i < 20 then { t with seq := .round .forward (i + 1) } else { t with seq := .post .forward }
  | .inverse =>
    let t := s.setBlock (inverseRound s.subkeys i s.block)
    if 1 < i then { t with seq := .round .inverse (i - 1) } else { t with seq := .post .inverse }

/-- The last pair of whitening lines, and completion (42_block.md R144). -/
def postStep (dir : Direction) (s : State) : State :=
  match dir with
  | .forward => State.completeTransform { s.setBlock (postWhiten s.subkeys s.block) with seq := .idle }
  | .inverse => State.completeTransform { s.setBlock (undoPreWhiten s.subkeys s.block) with seq := .idle }

/-- One element step of the command that is running; an idle sequencer stays as it is. -/
def sequencerStep (s : State) : State :=
  match s.seq with
  | .idle => s
  | .pack k => packStep k s
  | .init i => initStep i s
  | .mix k i j => mixStep k i j s
  | .pre dir => preStep dir s
  | .round dir i => roundStep dir i s
  | .post dir => postStep dir s

/-- `n` element steps one after another. -/
def sequencerRun : Nat → State → State
  | 0, s => s
  | n + 1, s => sequencerRun n (sequencerStep s)

/-- How many element steps a command takes from a state: `LW + 43 + 3 * max(LW, 44)` for a `KEYEXP` that runs
(70_reset_and_hazards.md R199), 20 rounds between two whitening steps for a transform that runs (42_block.md R147),
none for a command that faults and for a rotate command. -/
def commandSteps (c : Instr) (s : State) : Nat :=
  match c with
  | .keyexp =>
    match keyLengthFault s with
    | some _ => 0
    | none => keyWordCount s.klen + 43 + mixCount (keyWordCount s.klen)
  | .encrypt => if s.svalid then 1 + 20 + 1 else 0
  | .decrypt => if s.svalid then 1 + 20 + 1 else 0
  | .rotl => 0
  | .rotr => 0

end Sys2Proof.Machine
end

