-- ==== Sys2Proof/Safety.lean ====
section
/-! DEFINITION. What counts as a safe run: well-formed host accesses, and the invariant of the machine between
accesses. -/

namespace Sys2Proof.Machine

/-- A host event that has a meaning: a reset, or an access at an address of the window in the width of the register
there (20_memory.md R54, R57). -/
def HostEvent.wellFormed (cap : Capacity) (base : Nat) : HostEvent → Bool
  | .write addr width _ =>
    match regAtAddress cap base addr with
    | some r => width == r.width
    | none => false
  | .read addr width =>
    match regAtAddress cap base addr with
    | some r => width == r.width
    | none => false
  | .reset => true

/-- "The host is assumed never to" make an access without a meaning (20_memory.md R54): all pending ones have one. -/
def State.hostWellBehaved (s : State) : Prop :=
  ∀ e ∈ s.pending, HostEvent.wellFormed s.bmax s.base e = true

/-- The values `STATUS` can read as are exactly these seven (10_state.md R29). -/
def legalStatusWords : List Word :=
  [0x00000000#32, 0x00000001#32, 0x00000010#32, 0x00000020#32, 0x00000030#32, 0x00000040#32, 0x00000041#32]

/-- What holds between any two host accesses. -/
structure State.Inv (s : State) : Prop where
  /-- The key buffer is in its one form. -/
  key_wf : Memory.wf s.key
  /-- Nothing is listed outside `KEY[0 .. BMAX-1]` (10_state.md R20). -/
  key_present : ∀ c ∈ s.key, Capacity.indexes s.bmax c.1 = true
  /-- `L` has at most `BMAX/4` elements (10_state.md R20). -/
  keyWords_fit : Capacity.fits s.bmax (4 * s.keyWords.length) = true
  /-- `STATUS` is one of the seven words (10_state.md R29). -/
  status_legal : s.statusWord ∈ legalStatusWords
  /-- "the sequencer is `IDLE` ... whenever the host can look" (10_state.md R25). -/
  seq_idle : s.seq = .idle
  /-- `BMAX` is a multiple of 4, at least 4, or unbounded (00_scope.md R6). -/
  bmax_wf : s.bmax.wellFormed = true

/-- The key length is one `KEYEXP` accepts: a positive multiple of 4, at most `BMAX` (41_keysched.md R121). -/
def State.keyLengthOk (s : State) : Prop :=
  s.klen ≠ 0#32 ∧ s.klen.toNat % 4 = 0 ∧ Capacity.fits s.bmax s.klen.toNat = true

/-- The host has written every key byte `KEYEXP` reads, as it must (70_reset_and_hazards.md R192, R196). -/
def State.keyWritten (s : State) : Prop :=
  ∀ n, n < s.klen.toNat → ∃ v, Memory.read? s.key n = some v

/-- Two states the host cannot tell apart: all it can reach is the same, and `S` is the same as long as `SVALID = 1`.
Free are the hidden state `L`, `LW`, `KA`, `KB`, `SEQ` (10_state.md R36) and, while `SVALID = 0`, the words of `S`
(R37). -/
structure State.sameToHost (s t : State) : Prop where
  block : s.block = t.block
  key : s.key = t.key
  klen : s.klen = t.klen
  svalid : s.svalid = t.svalid
  err : s.err = t.err
  subkeys : s.svalid = true → s.subkeys = t.subkeys
  bmax : s.bmax = t.bmax
  base : s.base = t.base
  pending : s.pending = t.pending
  returned : s.returned = t.returned
  draws : s.draws = t.draws

end Sys2Proof.Machine
end

