-- ==== Sys2Proof/Certificates/Slice0/Obligations.lean ====
section
/-! DEFINITION. The statements for the provers, in the order of OBLIGATIONS.json. Each docstring names the rule of
spec/ it formalises. Where a statement speaks of a free value it holds for every value of it. -/

open Sys2Proof Sys2Proof.Machine

/-! ### Encoding -/

/-- The five command words written out bit by bit from `ZERO || GRP || DIR`, and two illegal words (30_encoding.md
R80, R81, R83). -/
def Obligations.SampleWordsDecode : Prop :=
  decode 0b00000000000000000000000000000001#32 = .ok .keyexp ∧
  decode 0b00000000000000000000000000000010#32 = .ok .encrypt ∧
  decode 0b00000000000000000000000000000011#32 = .ok .decrypt ∧
  decode 0b00000000000000000000000000000100#32 = .ok .rotl ∧
  decode 0b00000000000000000000000000000101#32 = .ok .rotr ∧
  decode 0b00000000000000000000000000000000#32 = .error (.illegalCommand 0x00000000#32) ∧
  decode 0b00000000000000000000000100000010#32 = .error (.illegalCommand 0x00000102#32)

/-- Both directions: every command's word decodes to it, and a word that decodes to a command is that command's one
word (30_encoding.md R80, R81). -/
def Obligations.DecodeAndEncodeAgree : Prop :=
  ∀ (w : Word) (i : Instr), decode w = .ok i ↔ w = encode i

/-! ### A step runs the decoded command -/

/-- A `CMD` write of a word that decodes to a command is `exec` of the command (10_state.md R28). -/
def Obligations.StepRunsTheDecodedCommand : Prop :=
  ∀ (s : State) (w : Word) (i : Instr) (rest : List HostEvent),
    s.pending = .write (s.base + 0x000) 32 w :: rest → decode w = .ok i →
    step s = exec i { s with pending := rest }

/-- `withFetchWord` places a command so that the very next step runs exactly it (the model's convention, entry 8). -/
def Obligations.PlacedCommandRunsNext : Prop :=
  ∀ (s : State) (i : Instr), step (s.withFetchWord 32 (encode i).toNat) = exec i s

/-- With no host access pending the block does nothing (the model's convention, entry 15, after
70_reset_and_hazards.md R190). -/
def Obligations.NothingPendingNothingHappens : Prop :=
  ∀ s : State, s.pending = [] → step s = .next s

/-- 30_encoding.md R83, 60_exceptions.md R164: any other word changes nothing but `ERR`, which becomes 4. -/
def Obligations.IllegalWordRaisesIllegalCommand : Prop :=
  ∀ (s : State) (w : Word) (rest : List HostEvent),
    s.pending = .write (s.base + 0x000) 32 w :: rest →
    w ≠ 0x00000001#32 → w ≠ 0x00000002#32 → w ≠ 0x00000003#32 → w ≠ 0x00000004#32 → w ≠ 0x00000005#32 →
    step s = .next { s with pending := rest, err := 4#4 }

/-! ### Reset -/

/-- The control state after power-on and after a reset event in any state (10_state.md R38, 70_reset_and_hazards.md
R190). Nothing is said of the data state, which is any value. -/
def Obligations.ResetDefinesControlState : Prop :=
  (State.reset.statusWord = 0x00000000#32 ∧ State.reset.klen = 0#32 ∧ State.reset.seq = .idle) ∧
  ∀ (s : State) (rest : List HostEvent), s.pending = .reset :: rest →
    ∃ t, step s = .next t ∧ t.svalid = false ∧ t.err = 0#4 ∧ t.statusWord = 0x00000000#32 ∧
      t.klen = 0#32 ∧ t.seq = .idle ∧ t.pending = rest

/-- The first commands after any reset: `KEYEXP` faults on the length, the transforms on the missing subkeys, and the
rotate commands run (70_reset_and_hazards.md R191). -/
def Obligations.FirstCommandsAfterReset : Prop :=
  ∀ (s t : State) (rest : List HostEvent), s.pending = .reset :: rest → step s = .next t →
    exec .keyexp t = .next { t with err := 1#4 } ∧
    exec .encrypt t = .next { t with err := 3#4 } ∧
    exec .decrypt t = .next { t with err := 3#4 } ∧
    (∃ u, exec .rotl t = .next u ∧ u.statusWord = 0x00000000#32) ∧
    (∃ u, exec .rotr t = .next u ∧ u.statusWord = 0x00000000#32)

/-! ### Word functions -/

/-- 40_primitives.md R100 to R103. -/
def Obligations.WordArithmeticWraps : Prop :=
  ∀ x y z : Word,
    (add32 x y).toNat = (x.toNat + y.toNat) % 2 ^ 32 ∧
    add32 (add32 x y) z = add32 x (add32 y z) ∧ add32 x y = add32 y x ∧
    (sub32 x y).toNat = (if y.toNat ≤ x.toNat then x.toNat - y.toNat else x.toNat + 2 ^ 32 - y.toNat) ∧
    sub32 (add32 x y) y = x ∧
    (mul32 x y).toNat = (x.toNat * y.toNat) % 2 ^ 32 ∧
    (∀ n, (xor32 x y).getLsbD n = true ↔ x.getLsbD n ≠ y.getLsbD n) ∧
    xor32 (xor32 x y) y = x

/-- 40_primitives.md R104: the bit permutation, the arithmetic form for `n` in 1 to 31, the identity for `n = 0`, and
the all-zero and all-one words. -/
def Obligations.RotateLeftMovesEveryBit : Prop :=
  ∀ val amount : Word,
    (∀ k, k < 32 → (rotl32 val amount).getLsbD ((k + amount.toNat % 32) % 32) = val.getLsbD k) ∧
    (1 ≤ amount.toNat % 32 →
      (rotl32 val amount).toNat =
        (val.toNat * 2 ^ (amount.toNat % 32)) % 2 ^ 32 + val.toNat / 2 ^ (32 - amount.toNat % 32)) ∧
    (amount.toNat % 32 = 0 → rotl32 val amount = val) ∧
    rotl32 0x00000000#32 amount = 0x00000000#32 ∧ rotl32 0xFFFFFFFF#32 amount = 0xFFFFFFFF#32

/-- 40_primitives.md R105, with the law that ties it to R104. -/
def Obligations.RotateRightMovesEveryBit : Prop :=
  ∀ val amount : Word,
    (∀ k, k < 32 → (rotr32 val amount).getLsbD k = val.getLsbD ((k + amount.toNat % 32) % 32)) ∧
    (1 ≤ amount.toNat % 32 →
      (rotr32 val amount).toNat =
        val.toNat / 2 ^ (amount.toNat % 32) + (val.toNat * 2 ^ (32 - amount.toNat % 32)) % 2 ^ 32) ∧
    (amount.toNat % 32 = 0 → rotr32 val amount = val) ∧
    rotr32 val amount = rotl32 val (BitVec.ofNat 32 ((32 - amount.toNat % 32) % 32)) ∧
    rotr32 0x00000000#32 amount = 0x00000000#32 ∧ rotr32 0xFFFFFFFF#32 amount = 0xFFFFFFFF#32

/-- 40_primitives.md R106. -/
def Obligations.RotationsUndoEachOther : Prop :=
  ∀ x n : Word, rotr32 (rotl32 x n) n = x ∧ rotl32 (rotr32 x n) n = x

/-- 40_primitives.md R107: the definition, and that reducing the exact product once gives the same. -/
def Obligations.QuadraticFunctionReducesOnce : Prop :=
  ∀ x : Word,
    quad5 x = (x * (2#32 * x + 1#32)).rotateLeft 5 ∧
    quad5 x = (BitVec.ofNat 32 (x.toNat * (2 * x.toNat + 1))).rotateLeft 5

/-! ### The rotate commands -/

/-- 40_primitives.md R109: from every state `ROTL` completes, moves every bit of `A` up by `B mod 32` places, clears
`ERR` and changes nothing else, `SVALID` included. -/
def Obligations.RotlCommandRotatesA : Prop :=
  encode .rotl = 0x00000004#32 ∧
  ∀ s : State, ∃ t, exec .rotl s = .next t ∧
    (∀ k, k < 32 → t.a.getLsbD ((k + s.b.toNat % 32) % 32) = s.a.getLsbD k) ∧
    t = { s with a := t.a, err := 0#4 }

/-- 40_primitives.md R110: the same for `ROTR`, bits moving down, and `ROTL` then `ROTR` restores `A`. -/
def Obligations.RotrCommandRotatesA : Prop :=
  encode .rotr = 0x00000005#32 ∧
  ∀ s : State,
    (∃ t, exec .rotr s = .next t ∧
      (∀ k, k < 32 → t.a.getLsbD k = s.a.getLsbD ((k + s.b.toNat % 32) % 32)) ∧
      t = { s with a := t.a, err := 0#4 }) ∧
    ∃ t, exec .rotl s = .next t ∧ exec .rotr t = .next { s with err := 0#4 }

/-! ### The key scheduler -/

/-- 20_memory.md R50: key bytes are packed little-endian. -/
def Obligations.KeyWordsPackLittleEndian : Prop :=
  ∀ (s : State) (k : Nat),
    (s.packedWord k).extractLsb' 0 8 = s.keyByte (4 * k) ∧
    (s.packedWord k).extractLsb' 8 8 = s.keyByte (4 * k + 1) ∧
    (s.packedWord k).extractLsb' 16 8 = s.keyByte (4 * k + 2) ∧
    (s.packedWord k).extractLsb' 24 8 = s.keyByte (4 * k + 3) ∧
    (s.packedWord k).toNat = (s.keyByte (4 * k)).toNat + (s.keyByte (4 * k + 1)).toNat * 2 ^ 8
      + (s.keyByte (4 * k + 2)).toNat * 2 ^ 16 + (s.keyByte (4 * k + 3)).toNat * 2 ^ 24

/-- The table before mixing in closed form (41_keysched.md R123, which marks the closed form as derived). -/
def Obligations.InitialSubkeysClosedForm : Prop :=
  ∀ (i : Nat) (h : i < 44), initialSubkeys[i] = 0xB7E15163#32 + BitVec.ofNat 32 i * 0x9E3779B9#32

/-- 41_keysched.md R128, 60_exceptions.md R161, R162: what a rejected key length does, that a positive multiple of 4 is
never `InvalidKeyLength`, and that `ResourceError` never occurs with `BMAX` unbounded. -/
def Obligations.KeyexpRejectsBadLengths : Prop :=
  ∀ s : State,
    (s.klen = 0#32 ∨ s.klen.toNat % 4 ≠ 0 → exec .keyexp s = .next { s with svalid := false, err := 1#4 }) ∧
    (∀ m, s.bmax = .bytes m → s.klen ≠ 0#32 → s.klen.toNat % 4 = 0 → m < s.klen.toNat →
      exec .keyexp s = .next { s with svalid := false, err := 2#4 }) ∧
    (s.klen ≠ 0#32 → s.klen.toNat % 4 = 0 → ∀ t, exec .keyexp s = .next t → t.err ≠ 1#4) ∧
    (s.bmax = .unbounded → ∀ t, exec .keyexp s = .next t → t.err ≠ 2#4)

/-- 41_keysched.md R122, R124, R125, written as the recurrences of R124 over the counter `k`: `KEYEXP` completes
from every state with an accepted key length (R121), and what it leaves in `S`, `L`, `LW`, `KA`, `KB` and `STATUS` is
what `v = 3 * max(LW, 44)` iterations give from the packed key and the initial table. Nothing else changes but the
model's own draw number (entry 5); a key byte never written reads as the free value of `State.keyByte` (entry 3). -/
def Obligations.KeyexpFollowsTheRecurrences : Prop :=
  encode .keyexp = 0x00000001#32 ∧
  ∀ s : State, s.klen ≠ 0#32 → s.klen.toNat % 4 = 0 → (∀ m, s.bmax = .bytes m → s.klen.toNat ≤ m) →
    ∃ t, exec .keyexp s = .next t ∧
    ∃ (S L : Nat → Nat → Word) (KA KB : Nat → Word) (lw v : Nat),
      lw = s.klen.toNat / 4 ∧ v = 3 * max lw 44 ∧ 132 ≤ v ∧
      (∀ j, j < lw → L 0 j = s.packedWord j) ∧
      S 0 0 = 0xB7E15163#32 ∧ (∀ i, i < 43 → S 0 (i + 1) = S 0 i + 0x9E3779B9#32) ∧
      KA 0 = 0#32 ∧ KB 0 = 0#32 ∧
      (∀ k, k < v →
        KA (k + 1) = (S k (k % 44) + KA k + KB k).rotateLeft 3 ∧
        KB (k + 1) = (L k (k % lw) + KA (k + 1) + KB k).rotateLeft ((KA (k + 1) + KB k).toNat % 32) ∧
        (∀ i, S (k + 1) i = if i = k % 44 then KA (k + 1) else S k i) ∧
        (∀ j, L (k + 1) j = if j = k % lw then KB (k + 1) else L k j)) ∧
      (∀ (i : Nat) (h : i < 44), t.subkeys[i] = S v i) ∧
      (∀ j, j < lw → t.keyWords[j]? = some (L v j)) ∧
      (∀ j, lw ≤ j → t.keyWords[j]? = s.keyWords[j]?) ∧
      t.lw.toNat = lw ∧ t.ka = KA v ∧ t.kb = KB v ∧
      t.ka = S v ((v - 1) % 44) ∧ t.kb = L v ((v - 1) % lw) ∧
      t = { s with lw := t.lw, keyWords := t.keyWords, subkeys := t.subkeys, ka := t.ka, kb := t.kb,
                   svalid := true, err := 0#4, draws := t.draws }

/-- The subkeys depend on the key bytes and the key length and on nothing else, and scheduling twice gives the same
subkeys (41_keysched.md R126). The premise that every key byte is written keeps the free value of entry 3 out. -/
def Obligations.SubkeysDependOnKeyOnly : Prop :=
  (∀ s₁ s₂ : State, s₁.keyLengthOk → s₂.keyLengthOk → s₁.keyWritten → s₁.klen = s₂.klen →
    (∀ n, n < s₁.klen.toNat → Memory.read? s₁.key n = Memory.read? s₂.key n) →
    ∃ t₁ t₂, exec .keyexp s₁ = .next t₁ ∧ exec .keyexp s₂ = .next t₂ ∧ t₁.subkeys = t₂.subkeys) ∧
  ∀ s : State, s.keyLengthOk → s.keyWritten →
    ∃ t u, exec .keyexp s = .next t ∧ exec .keyexp t = .next u ∧ u.subkeys = t.subkeys ∧
      u.keyWords = t.keyWords

/-! ### The block transform -/

/-- 42_block.md R140: without subkeys the transforms fault and change nothing but `ERR`; with subkeys they run to the
end without a fault. -/
def Obligations.TransformsTestSvalid : Prop :=
  ∀ s : State,
    (s.svalid = false → exec .encrypt s = .next { s with err := 3#4 } ∧
      exec .decrypt s = .next { s with err := 3#4 }) ∧
    (s.svalid = true → (∃ t, exec .encrypt s = .next t ∧ t.err = 0#4) ∧
      ∃ t, exec .decrypt s = .next t ∧ t.err = 0#4)

/-- 42_block.md R141, the rounds written as recurrences: `A i` to `D i` are the registers after round `i`, `A 0` to
`D 0` those after pre-whitening. Nothing but `A` to `D` and `STATUS` changes. Without subkeys it faults. -/
def Obligations.EncryptFollowsTheRounds : Prop :=
  encode .encrypt = 0x00000002#32 ∧
  (∀ s : State, s.svalid = false → exec .encrypt s = .next { s with err := 3#4 }) ∧
  ∀ s : State, s.svalid = true → ∃ A B C D : Nat → Word,
    A 0 = s.a ∧ B 0 = s.b + s.subkeys[0] ∧ C 0 = s.c ∧ D 0 = s.d + s.subkeys[1] ∧
    (∀ (i : Nat) (h : i < 20),
      let t := (B i * (2#32 * B i + 1#32)).rotateLeft 5
      let u := (D i * (2#32 * D i + 1#32)).rotateLeft 5
      A (i + 1) = B i ∧
      B (i + 1) = (C i ^^^ u).rotateLeft (t.toNat % 32) + s.subkeys[2 * (i + 1) + 1] ∧
      C (i + 1) = D i ∧
      D (i + 1) = (A i ^^^ t).rotateLeft (u.toNat % 32) + s.subkeys[2 * (i + 1)]) ∧
    exec .encrypt s = .next { s with a := A 20 + s.subkeys[42], b := B 20, c := C 20 + s.subkeys[43], d := D 20,
                                     svalid := false, err := 0#4 }

/-- 42_block.md R142, the rounds written as recurrences: `A i` to `D i` are the registers after round `i + 1`, counting
down; `A 20` to `D 20` those after the post-whitening is undone. Nothing but `A` to `D` and `STATUS` changes. Without
subkeys it faults. -/
def Obligations.DecryptFollowsTheRounds : Prop :=
  encode .decrypt = 0x00000003#32 ∧
  (∀ s : State, s.svalid = false → exec .decrypt s = .next { s with err := 3#4 }) ∧
  ∀ s : State, s.svalid = true → ∃ A B C D : Nat → Word,
    A 20 = s.a - s.subkeys[42] ∧ B 20 = s.b ∧ C 20 = s.c - s.subkeys[43] ∧ D 20 = s.d ∧
    (∀ (i : Nat) (h : i < 20),
      let u := (C (i + 1) * (2#32 * C (i + 1) + 1#32)).rotateLeft 5
      let t := (A (i + 1) * (2#32 * A (i + 1) + 1#32)).rotateLeft 5
      A i = (D (i + 1) - s.subkeys[2 * (i + 1)]).rotateRight (u.toNat % 32) ^^^ t ∧
      B i = A (i + 1) ∧
      C i = (B (i + 1) - s.subkeys[2 * (i + 1) + 1]).rotateRight (t.toNat % 32) ^^^ u ∧
      D i = C (i + 1)) ∧
    exec .decrypt s = .next { s with a := A 0, b := B 0 - s.subkeys[0], c := C 0, d := D 0 - s.subkeys[1],
                                     svalid := false, err := 0#4 }

/-- 42_block.md R143: the transforms are inverse for every content of `S`, both ways round, and at the level of
commands the script `KEYEXP`, `ENCRYPT`, `KEYEXP`, `DECRYPT` restores the block. -/
def Obligations.TransformsAreInverse : Prop :=
  (∀ (S : Subkeys) (x : Block), decryptBlock S (encryptBlock S x) = x) ∧
  (∀ (S : Subkeys) (x : Block), encryptBlock S (decryptBlock S x) = x) ∧
  ∀ s : State, s.keyLengthOk → s.keyWritten →
    s.pending = scriptAccesses s.base
      [.command .keyexp, .command .encrypt, .command .keyexp, .command .decrypt] →
    ∃ t, Sys2Proof.core.run 4 s = .next t ∧ t.a = s.a ∧ t.b = s.b ∧ t.c = s.c ∧ t.d = s.d

/-- 42_block.md R146: neither transform writes `S`, `L`, `KEY`, `KLEN`, `KA`, `KB`, and the block it leaves depends on
the block and `S` alone. -/
def Obligations.TransformsDependOnBlockAndSubkeys : Prop :=
  ∀ c : Instr, c = .encrypt ∨ c = .decrypt →
  ∀ s₁ s₂ : State, s₁.svalid = true → s₂.svalid = true → s₁.block = s₂.block → s₁.subkeys = s₂.subkeys →
    ∃ t₁ t₂, exec c s₁ = .next t₁ ∧ exec c s₂ = .next t₂ ∧ t₁.block = t₂.block ∧
      t₁ = { s₁ with a := t₁.a, b := t₁.b, c := t₁.c, d := t₁.d, svalid := t₁.svalid, err := t₁.err }

/-- 70_reset_and_hazards.md R193: a completed transform leaves `SVALID = 0`, and a second one faults. -/
def Obligations.SubkeysAreSingleUse : Prop :=
  ∀ c c' : Instr, (c = .encrypt ∨ c = .decrypt) → (c' = .encrypt ∨ c' = .decrypt) →
  ∀ s : State, s.svalid = true →
    ∃ t, exec c s = .next t ∧ t.svalid = false ∧ t.err = 0#4 ∧ exec c' t = .next { t with err := 3#4 }

/-! ### The host port -/

/-- The window's offsets and widths, and that every other offset is unmapped (20_memory.md R57). -/
def Obligations.WindowMapIsExact : Prop :=
  ∀ (cap : Capacity) (off : Nat),
    (regAtOffset cap off = some .cmd ↔ off = 0x000) ∧
    (regAtOffset cap off = some .status ↔ off = 0x004) ∧
    (regAtOffset cap off = some .klen ↔ off = 0x008) ∧
    (regAtOffset cap off = some .a ↔ off = 0x010) ∧
    (regAtOffset cap off = some .b ↔ off = 0x014) ∧
    (regAtOffset cap off = some .c ↔ off = 0x018) ∧
    (regAtOffset cap off = some .d ↔ off = 0x01C) ∧
    (∀ i : Fin 44, regAtOffset cap off = some (.subkey i) ↔ off = 0x100 + 4 * i.val) ∧
    (∀ n, regAtOffset cap off = some (.key n) ↔
      off = 0x1000 + n ∧ ∀ m, cap = .bytes m → n < m) ∧
    (∀ r : HostReg, (∀ n, r ≠ .key n) → r.width = 32) ∧ ∀ n, (HostReg.key n).width = 8

/-- An access at an unmapped address stops with the fault `unmappedAddress`, one of a wrong width with the refusal
`wrongWidth`: the spec gives both no meaning (20_memory.md R54); the names are the model's (entries 13, 14). -/
def Obligations.MeaninglessAccessStops : Prop :=
  ∀ (s : State) (addr width : Nat) (value : BitVec width) (rest : List HostEvent),
    (s.pending = .write addr width value :: rest ∨ s.pending = .read addr width :: rest) →
    (regAtAddress s.bmax s.base addr = none → step s = .fault (.unmappedAddress addr)) ∧
    (∀ r, regAtAddress s.bmax s.base addr = some r → width ≠ r.width → step s = .refused (.wrongWidth r width))

/-- A host write of a register other than `CMD` changes that register and nothing else; `STATUS` and `S[i]` ignore it
(20_memory.md R55). -/
def Obligations.HostWritesChangeOneRegister : Prop :=
  ∀ (s : State) (rest : List HostEvent),
    (∀ v : Word,
      (s.pending = .write (s.base + 0x004) 32 v :: rest → step s = .next { s with pending := rest }) ∧
      (s.pending = .write (s.base + 0x008) 32 v :: rest → step s = .next { s with klen := v, pending := rest }) ∧
      (s.pending = .write (s.base + 0x010) 32 v :: rest → step s = .next { s with a := v, pending := rest }) ∧
      (s.pending = .write (s.base + 0x014) 32 v :: rest → step s = .next { s with b := v, pending := rest }) ∧
      (s.pending = .write (s.base + 0x018) 32 v :: rest → step s = .next { s with c := v, pending := rest }) ∧
      (s.pending = .write (s.base + 0x01C) 32 v :: rest → step s = .next { s with d := v, pending := rest }) ∧
      (∀ i, i < 44 → s.pending = .write (s.base + 0x100 + 4 * i) 32 v :: rest →
        step s = .next { s with pending := rest })) ∧
    ∀ (n : Nat) (v : Byte), s.pending = .write (s.base + 0x1000 + n) 8 v :: rest →
      (∀ m, s.bmax = .bytes m → n < m) →
      ∃ t, step s = .next t ∧ Memory.read? t.key n = some v ∧
        (∀ k, k ≠ n → Memory.read? t.key k = Memory.read? s.key k) ∧
        t = { s with key := t.key, pending := rest }

/-- A host read answers the register's current value (20_memory.md R55): `STATUS` as `SVALID` in bit 0 and `ERR` in
bits 7:4, `CMD` as 0, a written key byte as the byte. -/
def Obligations.HostReadsAnswerTheRegister : Prop :=
  ∀ (s : State) (rest : List HostEvent),
    (s.pending = .read (s.base + 0x000) 32 :: rest → ∃ t, step s = .next t ∧ t.returned = some (.word 0#32)) ∧
    (s.pending = .read (s.base + 0x004) 32 :: rest → ∃ t v, step s = .next t ∧ t.returned = some (.word v) ∧
      v.toNat = 16 * s.err.toNat + (if s.svalid then 1 else 0)) ∧
    (s.pending = .read (s.base + 0x008) 32 :: rest → ∃ t, step s = .next t ∧ t.returned = some (.word s.klen)) ∧
    (s.pending = .read (s.base + 0x010) 32 :: rest → ∃ t, step s = .next t ∧ t.returned = some (.word s.a)) ∧
    (s.pending = .read (s.base + 0x014) 32 :: rest → ∃ t, step s = .next t ∧ t.returned = some (.word s.b)) ∧
    (s.pending = .read (s.base + 0x018) 32 :: rest → ∃ t, step s = .next t ∧ t.returned = some (.word s.c)) ∧
    (s.pending = .read (s.base + 0x01C) 32 :: rest → ∃ t, step s = .next t ∧ t.returned = some (.word s.d)) ∧
    ∀ (n : Nat) (v : Byte), s.pending = .read (s.base + 0x1000 + n) 8 :: rest →
      (∀ m, s.bmax = .bytes m → n < m) → Memory.read? s.key n = some v →
      ∃ t, step s = .next t ∧ t.returned = some (.byte v)

/-- 20_memory.md R59: the subkey read port answers `S[i]` while `SVALID = 1`, and some word, of which nothing is said,
while `SVALID = 0`. -/
def Obligations.SubkeyReadPort : Prop :=
  ∀ (s : State) (i : Nat) (h : i < 44) (rest : List HostEvent),
    s.pending = .read (s.base + 0x100 + 4 * i) 32 :: rest →
    ∃ t v, step s = .next t ∧ t.returned = some (.word v) ∧ (s.svalid = true → v = s.subkeys[i])

/-- No read has a side effect (the value it answers and the model's draw number apart), a repeated read answers the
same, repeated data writes change nothing more, and a `CMD` write is not idempotent (20_memory.md R56). The repeated
read leaves out a key byte never written and `S[i]` while `SVALID = 0`, which are free at every read (entries 3, 4). It
takes in `A` to `D` that only a reset has written: that these answer the same twice is the model's choice (entry 1), not
the spec's, which lets such data change between reads (92_eei_decisions.md D23). -/
def Obligations.OnlyCommandWritesHaveSideEffects : Prop :=
  (∀ (s t : State) (addr width : Nat) (rest : List HostEvent),
    s.pending = .read addr width :: rest → step s = .next t →
    t = { s with pending := rest, returned := t.returned, draws := t.draws } ∧
    ∀ (r : HostReg) (u : State), regAtAddress s.bmax s.base addr = some r →
      (∀ i, r = .subkey i → s.svalid = true) → (∀ n, r = .key n → ∃ v, Memory.read? s.key n = some v) →
      step { t with pending := .read addr width :: rest } = .next u → u.returned = t.returned) ∧
  (∀ (s t : State) (addr width : Nat) (value : BitVec width) (rest : List HostEvent),
    s.pending = .write addr width value :: rest → addr ≠ s.base → step s = .next t →
    step { t with pending := .write addr width value :: rest } = .next t) ∧
  (∀ s t : State, s.svalid = true → exec .encrypt s = .next t →
    t.err = 0#4 ∧ exec .encrypt t = .next { t with err := 3#4 })

/-- `LOADKEY` leaves the bytes in `KEY[0 ..]` and their number in `KLEN` and changes nothing else (30_encoding.md
R88). -/
def Obligations.LoadKeyScriptLoadsTheKey : Prop :=
  ∀ (s : State) (bytes : List Byte) (rest : List HostEvent),
    bytes.length < 2 ^ 32 → (∀ m, s.bmax = .bytes m → bytes.length ≤ m) →
    s.pending = scriptAccesses s.base (loadKey bytes) ++ rest →
    ∃ t, Sys2Proof.core.run (bytes.length + 1) s = .next t ∧ t.klen.toNat = bytes.length ∧
      (∀ (n : Nat) (h : n < bytes.length), Memory.read? t.key n = some bytes[n]) ∧
      (∀ n, bytes.length ≤ n → Memory.read? t.key n = Memory.read? s.key n) ∧
      t = { s with key := t.key, klen := t.klen, pending := rest }

/-! ### The status register and faults -/

/-- 60_exceptions.md R160: the outcome each command leaves in `ERR`, under the conditions of the table and the order of
checks of R167, and that a fault records nothing further. -/
def Obligations.ErrIsTheOutcomeOfTheCommand : Prop :=
  ∀ (s t : State) (w : Word) (rest : List HostEvent),
    s.pending = .write (s.base + 0x000) 32 w :: rest → step s = .next t →
    (w = 0x00000001#32 →
      (s.klen = 0#32 ∨ s.klen.toNat % 4 ≠ 0 → t.err = 1#4) ∧
      (s.klen ≠ 0#32 → s.klen.toNat % 4 = 0 → (∃ m, s.bmax = .bytes m ∧ m < s.klen.toNat) → t.err = 2#4) ∧
      (s.klen ≠ 0#32 → s.klen.toNat % 4 = 0 → (∀ m, s.bmax = .bytes m → s.klen.toNat ≤ m) → t.err = 0#4)) ∧
    (w = 0x00000002#32 ∨ w = 0x00000003#32 → t.err = if s.svalid then 0#4 else 3#4) ∧
    (w = 0x00000004#32 ∨ w = 0x00000005#32 → t.err = 0#4) ∧
    (w = 0#32 ∨ 5 < w.toNat → t.err = 4#4) ∧
    (t.err ≠ 0#4 → t = { s with pending := rest, err := t.err, svalid := t.svalid })

/-- 60_exceptions.md R168: a command that leaves a code changes nothing but `ERR` and, for the two `KEYEXP` faults,
`SVALID`. -/
def Obligations.FaultsWriteStatusOnly : Prop :=
  ∀ (s t : State) (w : Word) (rest : List HostEvent),
    s.pending = .write (s.base + 0x000) 32 w :: rest → step s = .next t → t.err ≠ 0#4 →
    t = { s with pending := rest, err := t.err, svalid := t.svalid } ∧
    (t.err = 1#4 ∨ t.err = 2#4 → t.svalid = false) ∧
    (t.err = 3#4 → s.svalid = false ∧ t.svalid = false) ∧
    (t.err = 4#4 → t.svalid = s.svalid)

/-- What sets, clears and keeps `SVALID` (10_state.md R26), over every step. -/
def Obligations.SvalidFollowsCommands : Prop :=
  ∀ (s t : State) (e : HostEvent) (rest : List HostEvent), s.pending = e :: rest → step s = .next t →
    (e = .reset → t.svalid = false) ∧
    (e = .write s.base 32 0x00000001#32 → (t.svalid = true ↔ s.keyLengthOk)) ∧
    (e = .write s.base 32 0x00000002#32 ∨ e = .write s.base 32 0x00000003#32 → t.svalid = false) ∧
    (e ≠ .reset → e ≠ .write s.base 32 0x00000001#32 → e ≠ .write s.base 32 0x00000002#32 →
      e ≠ .write s.base 32 0x00000003#32 → t.svalid = s.svalid)

/-- "`STATUS.ERR` is not sticky" but stands until the next command (60_exceptions.md R169, 20_memory.md R55): an
access that starts no command leaves it. -/
def Obligations.ErrStandsUntilTheNextCommand : Prop :=
  ∀ (s t : State) (e : HostEvent) (rest : List HostEvent), s.pending = e :: rest → step s = .next t →
    e ≠ .reset → (∀ w : Word, e ≠ .write s.base 32 w) → t.err = s.err

/-- The values `STATUS` can read as stay the seven of 10_state.md R29, whatever the host does. -/
def Obligations.StatusStaysLegal : Prop :=
  ∀ s t : State, s.statusWord ∈ legalStatusWords → step s = .next t → t.statusWord ∈ legalStatusWords

/-! ### Rules of the whole machine -/

/-- Only `KEYEXP` (and reset, after which `S` is any value) writes `S`: no other command and no host access changes
any `S[i]` (10_state.md R34, R37). -/
def Obligations.OnlyKeyexpWritesSubkeys : Prop :=
  ∀ (s t : State) (e : HostEvent) (rest : List HostEvent), s.pending = e :: rest → step s = .next t →
    e ≠ .reset → e ≠ .write s.base 32 0x00000001#32 → t.subkeys = s.subkeys

/-- No command writes `KEY` or `KLEN`, and no host access but their own writes does (41_keysched.md R129, 42_block.md
R146, 20_memory.md R55): an access outside the key window and `KLEN` keeps both. -/
def Obligations.OnlyTheHostWritesTheKey : Prop :=
  ∀ (s t : State) (e : HostEvent) (rest : List HostEvent), s.pending = e :: rest → step s = .next t →
    e ≠ .reset →
    ((∀ v : Word, e ≠ .write (s.base + 0x008) 32 v) → t.klen = s.klen) ∧
    ((∀ (n : Nat) (v : Byte), e ≠ .write (s.base + 0x1000 + n) 8 v) → t.key = s.key)

/-- `BMAX` and `BASE` never change (00_scope.md R6). -/
def Obligations.ParametersNeverChange : Prop :=
  ∀ s t : State, step s = .next t → t.bmax = s.bmax ∧ t.base = s.base

/-- The invariant holds right after reset (for the capacity of the reset state, entry 6). -/
def Obligations.InvariantHoldsAtReset : Prop := State.reset.Inv

/-- Every step keeps the invariant, from every state that meets it. -/
def Obligations.StepsKeepTheInvariant : Prop :=
  ∀ s t : State, s.Inv → step s = .next t → t.Inv

/-- A host whose accesses all have a meaning (20_memory.md R54) is never stopped: every command ends
(70_reset_and_hazards.md R199) and every run goes on. -/
def Obligations.WellBehavedHostIsNeverStopped : Prop :=
  ∀ s : State, s.hostWellBehaved →
    (∃ t, step s = .next t ∧ t.hostWellBehaved) ∧ ∀ n, ∃ t, Sys2Proof.core.run n s = .next t

/-- The hidden state, and the words of `S` while `SVALID = 0`, influence nothing the host can ever see (10_state.md
R36, R37): two states that look the same to it step alike and look the same again. -/
def Obligations.HiddenStateIsUnobservable : Prop :=
  ∀ s₁ s₂ : State, s₁.sameToHost s₂ →
    (∀ t₁, step s₁ = .next t₁ → ∃ t₂, step s₂ = .next t₂ ∧ t₁.sameToHost t₂) ∧
    (∀ r, step s₁ = .fault r → step s₂ = .fault r) ∧
    (∀ r, step s₁ = .refused r → step s₂ = .refused r)

/-- The command as one atomic transition equals its breakdown into the sequencer's element steps, which number
`LW + 43 + 3 * max(LW, 44)` for `KEYEXP` and 22 for a transform, and the sequencer is idle at the end and not before
(00_scope.md R10, 10_state.md R25, 41_keysched.md R130, 42_block.md R147, 70_reset_and_hazards.md R199). What one
element step takes in, and the direction that `SEQ` carries, are the model's choice (entry 10). -/
def Obligations.SequencerRefinesTheCommands : Prop :=
  ∀ (c : Instr) (s : State), s.seq = .idle →
    exec c s = .next (sequencerRun (commandSteps c s) (sequencerStart c s)) ∧
    ∀ n, n < commandSteps c s → (sequencerRun n (sequencerStart c s)).seq ≠ .idle
end

