-- ==== Sys2Proof/Laws/State.lean ====
section
/-! SUPPORT. One lemma per field per update of State, true by rfl, so that no proof unfolds a record update. -/

namespace Sys2Proof.Machine

/-! ### raiseFault -/

@[simp] theorem raiseFault_a (s : State) (c : Cause) : (s.raiseFault c).a = s.a := rfl
@[simp] theorem raiseFault_b (s : State) (c : Cause) : (s.raiseFault c).b = s.b := rfl
@[simp] theorem raiseFault_c (s : State) (c : Cause) : (s.raiseFault c).c = s.c := rfl
@[simp] theorem raiseFault_d (s : State) (c : Cause) : (s.raiseFault c).d = s.d := rfl
@[simp] theorem raiseFault_ka (s : State) (c : Cause) : (s.raiseFault c).ka = s.ka := rfl
@[simp] theorem raiseFault_kb (s : State) (c : Cause) : (s.raiseFault c).kb = s.kb := rfl
@[simp] theorem raiseFault_key (s : State) (c : Cause) : (s.raiseFault c).key = s.key := rfl
@[simp] theorem raiseFault_klen (s : State) (c : Cause) : (s.raiseFault c).klen = s.klen := rfl
@[simp] theorem raiseFault_lw (s : State) (c : Cause) : (s.raiseFault c).lw = s.lw := rfl
@[simp] theorem raiseFault_keyWords (s : State) (c : Cause) : (s.raiseFault c).keyWords = s.keyWords := rfl
@[simp] theorem raiseFault_subkeys (s : State) (c : Cause) : (s.raiseFault c).subkeys = s.subkeys := rfl
@[simp] theorem raiseFault_svalid (s : State) (c : Cause) : (s.raiseFault c).svalid = svalidAfterFault c s.svalid := rfl
@[simp] theorem raiseFault_err (s : State) (c : Cause) : (s.raiseFault c).err = faultCode c := rfl
@[simp] theorem raiseFault_seq (s : State) (c : Cause) : (s.raiseFault c).seq = s.seq := rfl
@[simp] theorem raiseFault_bmax (s : State) (c : Cause) : (s.raiseFault c).bmax = s.bmax := rfl
@[simp] theorem raiseFault_base (s : State) (c : Cause) : (s.raiseFault c).base = s.base := rfl
@[simp] theorem raiseFault_pending (s : State) (c : Cause) : (s.raiseFault c).pending = s.pending := rfl
@[simp] theorem raiseFault_returned (s : State) (c : Cause) : (s.raiseFault c).returned = s.returned := rfl
@[simp] theorem raiseFault_draws (s : State) (c : Cause) : (s.raiseFault c).draws = s.draws := rfl

/-! ### completeKeyexp -/

@[simp] theorem completeKeyexp_a (s : State) : s.completeKeyexp.a = s.a := rfl
@[simp] theorem completeKeyexp_b (s : State) : s.completeKeyexp.b = s.b := rfl
@[simp] theorem completeKeyexp_c (s : State) : s.completeKeyexp.c = s.c := rfl
@[simp] theorem completeKeyexp_d (s : State) : s.completeKeyexp.d = s.d := rfl
@[simp] theorem completeKeyexp_ka (s : State) : s.completeKeyexp.ka = s.ka := rfl
@[simp] theorem completeKeyexp_kb (s : State) : s.completeKeyexp.kb = s.kb := rfl
@[simp] theorem completeKeyexp_key (s : State) : s.completeKeyexp.key = s.key := rfl
@[simp] theorem completeKeyexp_klen (s : State) : s.completeKeyexp.klen = s.klen := rfl
@[simp] theorem completeKeyexp_lw (s : State) : s.completeKeyexp.lw = s.lw := rfl
@[simp] theorem completeKeyexp_keyWords (s : State) : s.completeKeyexp.keyWords = s.keyWords := rfl
@[simp] theorem completeKeyexp_subkeys (s : State) : s.completeKeyexp.subkeys = s.subkeys := rfl
@[simp] theorem completeKeyexp_svalid (s : State) : s.completeKeyexp.svalid = true := rfl
@[simp] theorem completeKeyexp_err (s : State) : s.completeKeyexp.err = 0#4 := rfl
@[simp] theorem completeKeyexp_seq (s : State) : s.completeKeyexp.seq = s.seq := rfl
@[simp] theorem completeKeyexp_bmax (s : State) : s.completeKeyexp.bmax = s.bmax := rfl
@[simp] theorem completeKeyexp_base (s : State) : s.completeKeyexp.base = s.base := rfl
@[simp] theorem completeKeyexp_pending (s : State) : s.completeKeyexp.pending = s.pending := rfl
@[simp] theorem completeKeyexp_returned (s : State) : s.completeKeyexp.returned = s.returned := rfl
@[simp] theorem completeKeyexp_draws (s : State) : s.completeKeyexp.draws = s.draws := rfl

/-! ### completeTransform -/

@[simp] theorem completeTransform_a (s : State) : s.completeTransform.a = s.a := rfl
@[simp] theorem completeTransform_b (s : State) : s.completeTransform.b = s.b := rfl
@[simp] theorem completeTransform_c (s : State) : s.completeTransform.c = s.c := rfl
@[simp] theorem completeTransform_d (s : State) : s.completeTransform.d = s.d := rfl
@[simp] theorem completeTransform_ka (s : State) : s.completeTransform.ka = s.ka := rfl
@[simp] theorem completeTransform_kb (s : State) : s.completeTransform.kb = s.kb := rfl
@[simp] theorem completeTransform_key (s : State) : s.completeTransform.key = s.key := rfl
@[simp] theorem completeTransform_klen (s : State) : s.completeTransform.klen = s.klen := rfl
@[simp] theorem completeTransform_lw (s : State) : s.completeTransform.lw = s.lw := rfl
@[simp] theorem completeTransform_keyWords (s : State) : s.completeTransform.keyWords = s.keyWords := rfl
@[simp] theorem completeTransform_subkeys (s : State) : s.completeTransform.subkeys = s.subkeys := rfl
@[simp] theorem completeTransform_svalid (s : State) : s.completeTransform.svalid = false := rfl
@[simp] theorem completeTransform_err (s : State) : s.completeTransform.err = 0#4 := rfl
@[simp] theorem completeTransform_seq (s : State) : s.completeTransform.seq = s.seq := rfl
@[simp] theorem completeTransform_bmax (s : State) : s.completeTransform.bmax = s.bmax := rfl
@[simp] theorem completeTransform_base (s : State) : s.completeTransform.base = s.base := rfl
@[simp] theorem completeTransform_pending (s : State) : s.completeTransform.pending = s.pending := rfl
@[simp] theorem completeTransform_returned (s : State) : s.completeTransform.returned = s.returned := rfl
@[simp] theorem completeTransform_draws (s : State) : s.completeTransform.draws = s.draws := rfl

/-! ### completeRotate -/

@[simp] theorem completeRotate_a (s : State) : s.completeRotate.a = s.a := rfl
@[simp] theorem completeRotate_b (s : State) : s.completeRotate.b = s.b := rfl
@[simp] theorem completeRotate_c (s : State) : s.completeRotate.c = s.c := rfl
@[simp] theorem completeRotate_d (s : State) : s.completeRotate.d = s.d := rfl
@[simp] theorem completeRotate_ka (s : State) : s.completeRotate.ka = s.ka := rfl
@[simp] theorem completeRotate_kb (s : State) : s.completeRotate.kb = s.kb := rfl
@[simp] theorem completeRotate_key (s : State) : s.completeRotate.key = s.key := rfl
@[simp] theorem completeRotate_klen (s : State) : s.completeRotate.klen = s.klen := rfl
@[simp] theorem completeRotate_lw (s : State) : s.completeRotate.lw = s.lw := rfl
@[simp] theorem completeRotate_keyWords (s : State) : s.completeRotate.keyWords = s.keyWords := rfl
@[simp] theorem completeRotate_subkeys (s : State) : s.completeRotate.subkeys = s.subkeys := rfl
@[simp] theorem completeRotate_svalid (s : State) : s.completeRotate.svalid = s.svalid := rfl
@[simp] theorem completeRotate_err (s : State) : s.completeRotate.err = 0#4 := rfl
@[simp] theorem completeRotate_seq (s : State) : s.completeRotate.seq = s.seq := rfl
@[simp] theorem completeRotate_bmax (s : State) : s.completeRotate.bmax = s.bmax := rfl
@[simp] theorem completeRotate_base (s : State) : s.completeRotate.base = s.base := rfl
@[simp] theorem completeRotate_pending (s : State) : s.completeRotate.pending = s.pending := rfl
@[simp] theorem completeRotate_returned (s : State) : s.completeRotate.returned = s.returned := rfl
@[simp] theorem completeRotate_draws (s : State) : s.completeRotate.draws = s.draws := rfl

/-! ### setBlock -/

@[simp] theorem setBlock_a (s : State) (x : Block) : (s.setBlock x).a = x.a := rfl
@[simp] theorem setBlock_b (s : State) (x : Block) : (s.setBlock x).b = x.b := rfl
@[simp] theorem setBlock_c (s : State) (x : Block) : (s.setBlock x).c = x.c := rfl
@[simp] theorem setBlock_d (s : State) (x : Block) : (s.setBlock x).d = x.d := rfl
@[simp] theorem setBlock_ka (s : State) (x : Block) : (s.setBlock x).ka = s.ka := rfl
@[simp] theorem setBlock_kb (s : State) (x : Block) : (s.setBlock x).kb = s.kb := rfl
@[simp] theorem setBlock_key (s : State) (x : Block) : (s.setBlock x).key = s.key := rfl
@[simp] theorem setBlock_klen (s : State) (x : Block) : (s.setBlock x).klen = s.klen := rfl
@[simp] theorem setBlock_lw (s : State) (x : Block) : (s.setBlock x).lw = s.lw := rfl
@[simp] theorem setBlock_keyWords (s : State) (x : Block) : (s.setBlock x).keyWords = s.keyWords := rfl
@[simp] theorem setBlock_subkeys (s : State) (x : Block) : (s.setBlock x).subkeys = s.subkeys := rfl
@[simp] theorem setBlock_svalid (s : State) (x : Block) : (s.setBlock x).svalid = s.svalid := rfl
@[simp] theorem setBlock_err (s : State) (x : Block) : (s.setBlock x).err = s.err := rfl
@[simp] theorem setBlock_seq (s : State) (x : Block) : (s.setBlock x).seq = s.seq := rfl
@[simp] theorem setBlock_bmax (s : State) (x : Block) : (s.setBlock x).bmax = s.bmax := rfl
@[simp] theorem setBlock_base (s : State) (x : Block) : (s.setBlock x).base = s.base := rfl
@[simp] theorem setBlock_pending (s : State) (x : Block) : (s.setBlock x).pending = s.pending := rfl
@[simp] theorem setBlock_returned (s : State) (x : Block) : (s.setBlock x).returned = s.returned := rfl
@[simp] theorem setBlock_draws (s : State) (x : Block) : (s.setBlock x).draws = s.draws := rfl

/-! ### hostRead -/

@[simp] theorem hostRead_a (s : State) (r : HostReg) : (s.hostRead r).a = s.a := rfl
@[simp] theorem hostRead_b (s : State) (r : HostReg) : (s.hostRead r).b = s.b := rfl
@[simp] theorem hostRead_c (s : State) (r : HostReg) : (s.hostRead r).c = s.c := rfl
@[simp] theorem hostRead_d (s : State) (r : HostReg) : (s.hostRead r).d = s.d := rfl
@[simp] theorem hostRead_ka (s : State) (r : HostReg) : (s.hostRead r).ka = s.ka := rfl
@[simp] theorem hostRead_kb (s : State) (r : HostReg) : (s.hostRead r).kb = s.kb := rfl
@[simp] theorem hostRead_key (s : State) (r : HostReg) : (s.hostRead r).key = s.key := rfl
@[simp] theorem hostRead_klen (s : State) (r : HostReg) : (s.hostRead r).klen = s.klen := rfl
@[simp] theorem hostRead_lw (s : State) (r : HostReg) : (s.hostRead r).lw = s.lw := rfl
@[simp] theorem hostRead_keyWords (s : State) (r : HostReg) : (s.hostRead r).keyWords = s.keyWords := rfl
@[simp] theorem hostRead_subkeys (s : State) (r : HostReg) : (s.hostRead r).subkeys = s.subkeys := rfl
@[simp] theorem hostRead_svalid (s : State) (r : HostReg) : (s.hostRead r).svalid = s.svalid := rfl
@[simp] theorem hostRead_err (s : State) (r : HostReg) : (s.hostRead r).err = s.err := rfl
@[simp] theorem hostRead_seq (s : State) (r : HostReg) : (s.hostRead r).seq = s.seq := rfl
@[simp] theorem hostRead_bmax (s : State) (r : HostReg) : (s.hostRead r).bmax = s.bmax := rfl
@[simp] theorem hostRead_base (s : State) (r : HostReg) : (s.hostRead r).base = s.base := rfl
@[simp] theorem hostRead_pending (s : State) (r : HostReg) : (s.hostRead r).pending = s.pending := rfl
@[simp] theorem hostRead_returned (s : State) (r : HostReg) : (s.hostRead r).returned = some (s.hostReadValue r) := rfl
@[simp] theorem hostRead_draws (s : State) (r : HostReg) : (s.hostRead r).draws = s.draws + 1 := rfl

/-! ### setMixRegisters -/

@[simp] theorem setMixRegisters_a (s : State) (m : Mix) : (s.setMixRegisters m).a = s.a := rfl
@[simp] theorem setMixRegisters_b (s : State) (m : Mix) : (s.setMixRegisters m).b = s.b := rfl
@[simp] theorem setMixRegisters_c (s : State) (m : Mix) : (s.setMixRegisters m).c = s.c := rfl
@[simp] theorem setMixRegisters_d (s : State) (m : Mix) : (s.setMixRegisters m).d = s.d := rfl
@[simp] theorem setMixRegisters_ka (s : State) (m : Mix) : (s.setMixRegisters m).ka = m.ka := rfl
@[simp] theorem setMixRegisters_kb (s : State) (m : Mix) : (s.setMixRegisters m).kb = m.kb := rfl
@[simp] theorem setMixRegisters_key (s : State) (m : Mix) : (s.setMixRegisters m).key = s.key := rfl
@[simp] theorem setMixRegisters_klen (s : State) (m : Mix) : (s.setMixRegisters m).klen = s.klen := rfl
@[simp] theorem setMixRegisters_lw (s : State) (m : Mix) : (s.setMixRegisters m).lw = s.lw := rfl
@[simp] theorem setMixRegisters_keyWords (s : State) (m : Mix) : (s.setMixRegisters m).keyWords = m.keyWords := rfl
@[simp] theorem setMixRegisters_subkeys (s : State) (m : Mix) : (s.setMixRegisters m).subkeys = m.subkeys := rfl
@[simp] theorem setMixRegisters_svalid (s : State) (m : Mix) : (s.setMixRegisters m).svalid = s.svalid := rfl
@[simp] theorem setMixRegisters_err (s : State) (m : Mix) : (s.setMixRegisters m).err = s.err := rfl
@[simp] theorem setMixRegisters_seq (s : State) (m : Mix) : (s.setMixRegisters m).seq = s.seq := rfl
@[simp] theorem setMixRegisters_bmax (s : State) (m : Mix) : (s.setMixRegisters m).bmax = s.bmax := rfl
@[simp] theorem setMixRegisters_base (s : State) (m : Mix) : (s.setMixRegisters m).base = s.base := rfl
@[simp] theorem setMixRegisters_pending (s : State) (m : Mix) : (s.setMixRegisters m).pending = s.pending := rfl
@[simp] theorem setMixRegisters_returned (s : State) (m : Mix) : (s.setMixRegisters m).returned = s.returned := rfl
@[simp] theorem setMixRegisters_draws (s : State) (m : Mix) : (s.setMixRegisters m).draws = s.draws := rfl

/-! ### The block as one value -/

@[simp] theorem block_a (s : State) : s.block.a = s.a := rfl
@[simp] theorem block_b (s : State) : s.block.b = s.b := rfl
@[simp] theorem block_c (s : State) : s.block.c = s.c := rfl
@[simp] theorem block_d (s : State) : s.block.d = s.d := rfl
@[simp] theorem block_setBlock (s : State) (x : Block) : (s.setBlock x).block = x := rfl

/-! ### afterReset -/

@[simp] theorem afterReset_key (cap : Capacity) (base : Nat) (p : List HostEvent) (r : Option Datum) (n : Nat) :
    (State.afterReset cap base p r n).key = [] := rfl
@[simp] theorem afterReset_klen (cap : Capacity) (base : Nat) (p : List HostEvent) (r : Option Datum) (n : Nat) :
    (State.afterReset cap base p r n).klen = 0#32 := rfl
@[simp] theorem afterReset_keyWords (cap : Capacity) (base : Nat) (p : List HostEvent) (r : Option Datum) (n : Nat) :
    (State.afterReset cap base p r n).keyWords = [] := rfl
@[simp] theorem afterReset_svalid (cap : Capacity) (base : Nat) (p : List HostEvent) (r : Option Datum) (n : Nat) :
    (State.afterReset cap base p r n).svalid = false := rfl
@[simp] theorem afterReset_err (cap : Capacity) (base : Nat) (p : List HostEvent) (r : Option Datum) (n : Nat) :
    (State.afterReset cap base p r n).err = 0#4 := rfl
@[simp] theorem afterReset_seq (cap : Capacity) (base : Nat) (p : List HostEvent) (r : Option Datum) (n : Nat) :
    (State.afterReset cap base p r n).seq = .idle := rfl
@[simp] theorem afterReset_bmax (cap : Capacity) (base : Nat) (p : List HostEvent) (r : Option Datum) (n : Nat) :
    (State.afterReset cap base p r n).bmax = cap := rfl
@[simp] theorem afterReset_base (cap : Capacity) (base : Nat) (p : List HostEvent) (r : Option Datum) (n : Nat) :
    (State.afterReset cap base p r n).base = base := rfl
@[simp] theorem afterReset_pending (cap : Capacity) (base : Nat) (p : List HostEvent) (r : Option Datum) (n : Nat) :
    (State.afterReset cap base p r n).pending = p := rfl
@[simp] theorem afterReset_returned (cap : Capacity) (base : Nat) (p : List HostEvent) (r : Option Datum) (n : Nat) :
    (State.afterReset cap base p r n).returned = r := rfl
@[simp] theorem afterReset_draws (cap : Capacity) (base : Nat) (p : List HostEvent) (r : Option Datum) (n : Nat) :
    (State.afterReset cap base p r n).draws = n + 1 := rfl

end Sys2Proof.Machine
end

