-- ==== Sys2Proof/Laws/Arrays.lean ====
section
/-! SUPPORT. The laws of the arrays `S` and `L`: element read after element write, packing, and the shape of mixing. -/

namespace Sys2Proof.Machine

/-- An element of `S` inside the array is the vector's element. -/
theorem subkeyAt_of_lt (S : Subkeys) (i : Nat) (h : i < 44) : subkeyAt S i = S[i] := by
  simp [subkeyAt, Vector.getD, h]

/-- `S[i]` after a write of an element inside the array. -/
theorem subkeyAt_setSubkey (S : Subkeys) (i k : Nat) (v : Word) (h : k < 44) :
    subkeyAt (setSubkey S i v) k = if k = i then v else subkeyAt S k := by
  rw [subkeyAt_of_lt _ _ h, subkeyAt_of_lt _ _ h]
  simp only [setSubkey, Vector.getElem_setIfInBounds, eq_comm]

/-- Two subkey arrays with equal elements are equal. -/
theorem subkeys_ext {S T : Subkeys} (h : ∀ i, i < 44 → subkeyAt S i = subkeyAt T i) : S = T := by
  refine Vector.ext fun i hi => ?_
  simpa [subkeyAt_of_lt _ _ hi] using h i hi

/-- The array before mixing. -/
theorem subkeyAt_initialSubkeys (i : Nat) (h : i < 44) : subkeyAt initialSubkeys i = initialSubkey i := by
  simp [subkeyAt_of_lt _ _ h, initialSubkeys]

/-- A write keeps the length of `L`. -/
@[simp] theorem setKeyWord_length (L : List Word) (j : Nat) (v : Word) : (setKeyWord L j v).length = L.length := by
  simp [setKeyWord]

/-- `L[j]` after a write of an element that `L` has. -/
theorem keyWordAt_setKeyWord (L : List Word) (j k : Nat) (v : Word) (h : j < L.length) :
    keyWordAt (setKeyWord L j v) k = if k = j then v else keyWordAt L k := by
  by_cases hk : k = j
  · subst hk; simp [keyWordAt, setKeyWord, h]
  · simp [keyWordAt, setKeyWord, hk, Ne.symm hk]

/-- Packing leaves `LW` elements and whatever `L` already had above them. -/
@[simp] theorem packKey_length (s : State) (lw : Nat) : (packKey s lw).length = max lw s.keyWords.length := by
  simp [packKey]; omega

/-- `L[j]` after packing, below `LW`. -/
theorem keyWordAt_packKey (s : State) (lw j : Nat) (h : j < lw) : keyWordAt (packKey s lw) j = s.packedWord j := by
  unfold keyWordAt packKey
  rw [List.getD_append _ _ _ _ (by simpa using h)]
  simp [List.getD, h]

/-- One more mixing iteration, at the far end. -/
theorem mixIterations_succ (lw n : Nat) (m : Mix) :
    mixIterations lw (n + 1) m = mixIteration lw (mixIterations lw n m) := by
  induction n generalizing m with
  | zero => rfl
  | succ n ih => exact ih (mixIteration lw m)

/-- The indices after `n` iterations from `i = j = 0` (41_keysched.md R124). -/
theorem mixIterations_indices (lw n : Nat) (S : Subkeys) (L : List Word) :
    (mixIterations lw n (mixStart S L)).i = n % 44 ∧ (mixIterations lw n (mixStart S L)).j = n % lw := by
  induction n with
  | zero => simp [mixIterations, mixStart]
  | succ n ih =>
    rw [mixIterations_succ]
    simp [mixIteration, ih.1, ih.2]

/-- Mixing never changes the length of `L`. -/
@[simp] theorem mixIterations_keyWords_length (lw n : Nat) (m : Mix) :
    (mixIterations lw n m).keyWords.length = m.keyWords.length := by
  induction n with
  | zero => rfl
  | succ n ih => rw [mixIterations_succ]; simp [mixIteration, ih]

/-- A key length is accepted exactly when validation raises nothing. -/
theorem keyLengthFault_eq_none_iff (s : State) : keyLengthFault s = none ↔ s.keyLengthOk := by
  unfold keyLengthFault State.keyLengthOk
  by_cases h1 : s.klen = 0#32
  · simp [h1]
  · by_cases h2 : s.klen.toNat % 4 = 0
    · by_cases h3 : Capacity.fits s.bmax s.klen.toNat = true <;> simp [h1, h2, h3]
    · simp [h1, h2]

/-- An accepted key has at least one word and its word count fits the register `LW`. -/
theorem keyWordCount_bounds {s : State} (h : s.keyLengthOk) :
    1 ≤ keyWordCount s.klen ∧ keyWordCount s.klen < 2 ^ 32 ∧ 4 * keyWordCount s.klen = s.klen.toNat := by
  have h0 : s.klen.toNat ≠ 0 := fun e => h.1 (BitVec.eq_of_toNat_eq (by simpa using e))
  have h1 := h.2.1
  have h2 := s.klen.isLt
  unfold keyWordCount
  omega

end Sys2Proof.Machine
end

