-- ==== Sys2Proof/Laws/Memory.lean ====
section
/-! SUPPORT. The laws of the key buffer: read after write, and that every operation keeps its one form. -/

namespace Sys2Proof.Machine

/-- A read after a write gives the value written at its index and what was there before everywhere else. -/
theorem Memory.read?_write (m : Memory) (n k : Nat) (v : Byte) :
    Memory.read? (Memory.write m n v) k = if k = n then some v else Memory.read? m k := by
  induction m with
  | nil => by_cases h : n = k <;> simp [Memory.write, Memory.read?, h, eq_comm]
  | cons c m ih =>
    obtain ⟨i, w⟩ := c
    unfold Memory.write
    by_cases h1 : n < i
    · by_cases h2 : k = n
      · simp [h1, Memory.read?, h2]
      · simp [h1, Memory.read?, h2, Ne.symm h2]
    · by_cases h3 : n = i
      · subst h3
        by_cases h2 : k = n
        · simp [Memory.read?, h2]
        · simp [Memory.read?, h2, Ne.symm h2]
      · by_cases h2 : i = k
        · subst h2
          simp [h1, h3, Memory.read?, Ne.symm h3]
        · simp [h1, h3, Memory.read?, h2, ih]

/-- Every entry after a write is the one written or was there before. -/
theorem Memory.mem_write {m : Memory} {n : Nat} {v : Byte} {c : Host.Cell} (h : c ∈ Memory.write m n v) :
    c = (n, v) ∨ c ∈ m := by
  induction m with
  | nil => simpa [Memory.write] using h
  | cons e m ih =>
    obtain ⟨i, w⟩ := e
    unfold Memory.write at h
    split at h
    · simpa using h
    · split at h
      · rcases List.mem_cons.mp h with h | h
        · exact .inl h
        · exact .inr (List.mem_cons_of_mem _ h)
      · rcases List.mem_cons.mp h with h | h
        · exact .inr (by simp [h])
        · exact (ih h).imp id (List.mem_cons_of_mem _)

/-- A write keeps the one form. -/
theorem Memory.write_wf {m : Memory} (n : Nat) (v : Byte) (h : Memory.wf m) : Memory.wf (Memory.write m n v) := by
  induction m with
  | nil => simp [Memory.write, Memory.wf]
  | cons e m ih =>
    obtain ⟨i, w⟩ := e
    have hm := List.pairwise_cons.mp h
    unfold Memory.write
    split
    · rename_i hlt
      refine List.pairwise_cons.mpr ⟨fun c hc => ?_, h⟩
      rcases List.mem_cons.mp hc with hc | hc
      · simpa [hc] using hlt
      · exact Nat.lt_trans hlt (hm.1 c hc)
    · split
      · rename_i heq
        subst heq
        exact List.pairwise_cons.mpr ⟨hm.1, hm.2⟩
      · rename_i hlt hne
        refine List.pairwise_cons.mpr ⟨fun c hc => ?_, ih hm.2⟩
        rcases Memory.mem_write hc with hc | hc
        · simp only [hc]; omega
        · exact hm.1 c hc

/-- In its one form a memory that holds nothing is the empty list, which every reset leaves. -/
theorem reset_key_wf : Memory.wf State.reset.key := List.Pairwise.nil

/-- Two memories in the one form that read alike are the same list. -/
theorem Memory.ext_of_wf {m m' : Memory} (h : Memory.wf m) (h' : Memory.wf m')
    (hr : ∀ n, Memory.read? m n = Memory.read? m' n) : m = m' := by
  have none_below : ∀ (m : Memory) (n : Nat), (∀ c ∈ m, n < c.1) → Memory.read? m n = none := by
    intro m n hb
    induction m with
    | nil => rfl
    | cons e m ih =>
      obtain ⟨i, w⟩ := e
      have hi : n < i := by simpa using hb (i, w) (by simp)
      have : i ≠ n := by omega
      simp [Memory.read?, this, ih fun c hc => hb c (by simp [hc])]
  induction m generalizing m' with
  | nil =>
    cases m' with
    | nil => rfl
    | cons e m' => simpa [Memory.read?] using hr e.1
  | cons e m ih =>
    obtain ⟨i, w⟩ := e
    cases m' with
    | nil => simpa [Memory.read?] using hr i
    | cons e' m' =>
      obtain ⟨i', w'⟩ := e'
      have hm := List.pairwise_cons.mp h
      have hm' := List.pairwise_cons.mp h'
      have hii : i = i' := by
        rcases Nat.lt_trichotomy i i' with hlt | heq | hlt
        · have hn := none_below ((i', w') :: m') i (by
            intro c hc
            rcases List.mem_cons.mp hc with hc | hc
            · simpa [hc] using hlt
            · exact Nat.lt_trans hlt (hm'.1 c hc))
          have := hr i
          rw [hn] at this
          simp [Memory.read?] at this
        · exact heq
        · have hn := none_below ((i, w) :: m) i' (by
            intro c hc
            rcases List.mem_cons.mp hc with hc | hc
            · simpa [hc] using hlt
            · exact Nat.lt_trans hlt (hm.1 c hc))
          have := hr i'
          rw [hn] at this
          simp [Memory.read?] at this
      subst hii
      have hw : w = w' := by simpa [Memory.read?] using hr i
      subst hw
      congr 1
      refine ih hm.2 hm'.2 fun n => ?_
      by_cases hn : i = n
      · subst hn
        rw [none_below m i hm.1, none_below m' i hm'.1]
      · simpa [Memory.read?, hn] using hr n

end Sys2Proof.Machine
end

