-- ==== Sys2Proof/Laws/Ops.lean ====
section
/-! SUPPORT. One lemma per shared operation that says all it can do, and the inversion of a step. -/

namespace Sys2Proof.Machine

/-- The state `KEYEXP` leaves for an accepted key. -/
def keyexpResult (s : State) : State :=
  State.completeKeyexp
    { s with
      lw := BitVec.ofNat 32 (keyWordCount s.klen)
      keyWords := (expandKey s (keyWordCount s.klen)).keyWords
      subkeys := (expandKey s (keyWordCount s.klen)).subkeys
      ka := (expandKey s (keyWordCount s.klen)).ka
      kb := (expandKey s (keyWordCount s.klen)).kb
      draws := s.draws + 1 }

/-- `KEYEXP` either rejects the key length with one of its two faults or expands the key. -/
theorem execKeyexp_cases (s : State) :
    (∃ c, (c = .invalidKeyLength ∨ c = .resourceError) ∧ keyLengthFault s = some c ∧
      execKeyexp s = .next (s.raiseFault c)) ∨
    (s.keyLengthOk ∧ execKeyexp s = .next (keyexpResult s)) := by
  unfold execKeyexp
  cases h : keyLengthFault s with
  | some c =>
    refine .inl ⟨c, ?_, rfl, rfl⟩
    unfold keyLengthFault at h
    split at h
    · exact .inl (Option.some.inj h).symm
    · split at h
      · exact .inl (Option.some.inj h).symm
      · split at h
        · cases h
        · exact .inr (Option.some.inj h).symm
  | none => exact .inr ⟨(keyLengthFault_eq_none_iff s).mp h, rfl⟩

/-- A transform with subkeys. -/
theorem runTransform_of_svalid {s : State} (f : Subkeys → Block → Block) (h : s.svalid = true) :
    s.runTransform f = (s.setBlock (f s.subkeys s.block)).completeTransform := by
  simp [State.runTransform, h]

/-- A transform without subkeys. -/
theorem runTransform_of_not_svalid {s : State} (f : Subkeys → Block → Block) (h : s.svalid = false) :
    s.runTransform f = s.raiseFault .subkeysNotReady := by
  simp [State.runTransform, h]

/-- Every command completes: it answers a next state, never a fault or a refusal. -/
theorem exec_next (i : Instr) (s : State) : ∃ t, exec i s = .next t := by
  cases i with
  | keyexp => rcases execKeyexp_cases s with ⟨c, -, -, h⟩ | ⟨-, h⟩ <;> exact ⟨_, h⟩
  | encrypt => exact ⟨_, rfl⟩
  | decrypt => exact ⟨_, rfl⟩
  | rotl => exact ⟨_, rfl⟩
  | rotr => exact ⟨_, rfl⟩

/-- A write of `CMD` runs the command its word decodes to, or raises `IllegalCommand`. -/
theorem commandWrite_cases (v : Word) (s : State) :
    (∃ i, decode v = .ok i ∧ commandWrite v s = exec i s) ∨
    ((∃ e, decode v = .error e) ∧ commandWrite v s = .next (s.raiseFault .illegalCommand)) := by
  unfold commandWrite
  cases h : decode v with
  | ok i => exact .inl ⟨i, rfl, rfl⟩
  | error e => exact .inr ⟨⟨e, rfl⟩, rfl⟩

/-- A host write of any register but `CMD` answers the state `hostWriteData` gives. -/
theorem hostWrite_of_ne_cmd {r : HostReg} (v : Word) (s : State) (h : r ≠ .cmd) :
    hostWrite r v s = .next (s.hostWriteData r v) := by
  cases r with
  | cmd => exact absurd rfl h
  | _ => rfl

/-- All that a step can do when it goes on: nothing, a command write, a data write, a read, or a reset. -/
theorem step_cases {s t : State} (h : step s = .next t) :
    (s.pending = [] ∧ t = s) ∨
    ∃ rest, (s.pending = .reset :: rest ∧
        t = State.afterReset s.bmax s.base rest s.returned s.draws) ∨
      (∃ v : Word, s.pending = .write s.base 32 v :: rest ∧
        commandWrite v { s with pending := rest } = .next t) ∨
      (∃ (addr width : Nat) (value : BitVec width) (r : HostReg),
        s.pending = .write addr width value :: rest ∧ regAtAddress s.bmax s.base addr = some r ∧ r ≠ .cmd ∧
        width = r.width ∧ t = State.hostWriteData { s with pending := rest } r (value.setWidth 32)) ∨
      (∃ (addr width : Nat) (r : HostReg),
        s.pending = .read addr width :: rest ∧ regAtAddress s.bmax s.base addr = some r ∧
        width = r.width ∧ t = State.hostRead { s with pending := rest } r) := by
  unfold step at h
  cases hp : s.pending with
  | nil => rw [hp] at h; exact .inl ⟨rfl, (Host.Outcome.next.inj h).symm⟩
  | cons e rest =>
    rw [hp] at h
    refine .inr ⟨rest, ?_⟩
    cases e with
    | reset => exact .inl ⟨rfl, (Host.Outcome.next.inj h).symm⟩
    | write addr width value =>
      simp only [hostEvent, accessRegister] at h
      cases hr : regAtAddress s.bmax s.base addr with
      | none => simp [hr] at h
      | some r =>
        simp only [hr] at h
        split at h
        · rename_i hw
          by_cases hc : r = .cmd
          · subst hc
            have hw' : width = 32 := hw
            subst hw'
            have ha : addr = s.base := by
              unfold regAtAddress regAtOffset at hr
              repeat' split at hr
              all_goals first | omega | simp at hr
            subst ha
            refine .inr (.inl ⟨value, rfl, ?_⟩)
            simpa [hostWrite] using h
          · rw [hostWrite_of_ne_cmd _ _ hc] at h
            exact .inr (.inr (.inl ⟨addr, width, value, r, rfl, hr, hc, hw, (Host.Outcome.next.inj h).symm⟩))
        · cases h
    | read addr width =>
      simp only [hostEvent, accessRegister] at h
      cases hr : regAtAddress s.bmax s.base addr with
      | none => simp [hr] at h
      | some r =>
        simp only [hr] at h
        split at h
        · rename_i hw
          exact .inr (.inr (.inr ⟨addr, width, r, rfl, hr, hw, (Host.Outcome.next.inj h).symm⟩))
        · cases h

end Sys2Proof.Machine
end

