-- ==== Sys2Proof/Laws/PerInstr.lean ====
section
/-! SUPPORT. Statements about every command as syntax, one lemma per constructor. -/

namespace Sys2Proof.Laws.CommandFormat

/-- The command word has the fields of 30_encoding.md R80: `ZERO` in bits 31:8 is 0, `GRP` is bits 7:1, `DIR` is bit 0;
the command is well-formed; and the decoder reads the word, numbered as the opcode table numbers it, as the command. -/
def Statement (i : Instr) : Prop :=
  (encode i).extractLsb' 8 24 = 0#24 ∧ (encode i).extractLsb' 1 7 = i.group ∧
  (encode i).extractLsb' 0 1 = i.direction ∧ i.wellFormed = true ∧
  decodeTableWord 32 (encode i).toNat = some i

theorem keyexp : Statement .keyexp := by unfold Statement; decide
theorem encrypt : Statement .encrypt := by unfold Statement; decide
theorem decrypt : Statement .decrypt := by unfold Statement; decide
theorem rotl : Statement .rotl := by unfold Statement; decide
theorem rotr : Statement .rotr := by unfold Statement; decide

end Sys2Proof.Laws.CommandFormat
end

