-- ==== Sys2Proof/Tests/Slice0.lean ====
section
/-! SUPPORT. The model's own tests, each of one step on a small state, with its expected result from spec/
(95_test_vectors.md or the example of the rule named), and a witness for the hypotheses of each obligation. -/

namespace Sys2Proof.Tests

open Sys2Proof Sys2Proof.Machine

/-- A small state with a different value in every register; `S[i] = i` as in V-F2. -/
def probe : State where
  a := 0x12345678#32
  b := 0x00000024#32
  c := 0x0000000C#32
  d := 0x0000000D#32
  ka := 0x000000A0#32
  kb := 0x000000B0#32
  key := (List.range 16).map fun n => (n, 0x00#8)
  klen := 16#32
  lw := 7#32
  keyWords := [0x77777777#32]
  subkeys := Vector.ofFn fun i => BitVec.ofNat 32 i.val
  svalid := true
  err := 4#4
  seq := .idle
  bmax := .bytes 256
  base := 0
  pending := []
  returned := none
  draws := 9

/-- `probe` with these accesses pending. -/
def probeWith (events : List HostEvent) : State := { probe with pending := events }

/-- `probe` with this key length. -/
def probeKlen (b : Nat) : State := { probe with klen := BitVec.ofNat 32 b }

/-- The outcome is a next state of which `p` holds. -/
def nextHas (o : Host.Outcome State Fault Refusal) (p : State → Bool) : Bool :=
  match o with
  | .next t => p t
  | .fault _ => false
  | .refused _ => false

/-! ### Well-formedness refuses ill-formed terms -/

theorem test_wellFormed_refuses_capacity_zero : (Capacity.bytes 0).wellFormed = false := by decide
theorem test_wellFormed_refuses_capacity_six : (Capacity.bytes 6).wellFormed = false := by decide
theorem test_wellFormed_takes_capacity_four : (Capacity.bytes 4).wellFormed = true := by decide
theorem test_wellFormed_refuses_unmapped_access :
    HostEvent.wellFormed (.bytes 256) 0 (.read 0x00C 32) = false := by decide
theorem test_wellFormed_refuses_key_beyond_bmax :
    HostEvent.wellFormed (.bytes 256) 0 (.write 0x1100 8 0#8) = false := by decide
theorem test_wellFormed_refuses_wrong_width :
    HostEvent.wellFormed (.bytes 256) 0 (.read 0x1000 32) = false := by decide
theorem test_wellFormed_takes_last_key_byte :
    HostEvent.wellFormed (.bytes 256) 0 (.write 0x10FF 8 0#8) = true := by decide

/-! ### Decoding, each word written bit by bit from `ZERO || GRP || DIR` (30_encoding.md R80, R81) -/

theorem test_decode_keyexp : decode 0b000000000000000000000000_0000000_1#32 = .ok .keyexp := by decide
theorem test_decode_encrypt : decode 0b000000000000000000000000_0000001_0#32 = .ok .encrypt := by decide
theorem test_decode_decrypt : decode 0b000000000000000000000000_0000001_1#32 = .ok .decrypt := by decide
theorem test_decode_rotl : decode 0b000000000000000000000000_0000010_0#32 = .ok .rotl := by decide
theorem test_decode_rotr : decode 0b000000000000000000000000_0000010_1#32 = .ok .rotr := by decide
theorem test_decode_refuses_zero : decode 0x00000000#32 = .error (.illegalCommand 0x00000000#32) := by decide
theorem test_decode_refuses_six : decode 0x00000006#32 = .error (.illegalCommand 0x00000006#32) := by decide
theorem test_decode_refuses_high_bits : decode 0x00000102#32 = .error (.illegalCommand 0x00000102#32) := by decide
theorem test_decodeTableWord_rotr : decodeTableWord 32 5 = some .rotr := by decide
theorem test_decodeTableWord_illegal : decodeTableWord 32 0 = none := by decide

/-! ### One step of each command -/

set_option maxRecDepth 100000 in
/-- V-K1: 16 zero bytes. -/
theorem test_keyexp_zero_key : nextHas (step (probe.withFetchWord 32 1)) (fun t =>
    t.subkeys[0] == 0x2A66311C#32 && t.subkeys[1] == 0x9B17852D#32 && t.subkeys[43] == 0x4B38AC83#32 &&
    t.statusWord == 0x00000001#32 && t.lw == 4#32) = true := by decide

/-- V-K8: `BMAX = 256`, `KLEN = 257` is `InvalidKeyLength`, `KLEN = 260` is `ResourceError`, and `SVALID` is cleared. -/
theorem test_keyexp_order_of_checks :
    nextHas (exec .keyexp (probeKlen 257)) (fun t => t.statusWord == 0x00000010#32) = true ∧
    nextHas (exec .keyexp (probeKlen 260)) (fun t => t.statusWord == 0x00000020#32) = true := by decide

set_option maxRecDepth 100000 in
/-- V-F2: `S[i] = i`. -/
theorem test_encrypt_small_subkeys :
    nextHas (exec .encrypt (probe.setBlock ⟨1#32, 2#32, 3#32, 4#32⟩)) (fun t =>
      t.block == ⟨0xE102F1CC#32, 0xA4620D9B#32, 0x1B50DE50#32, 0x49333754#32⟩ &&
      t.statusWord == 0x00000000#32) = true := by decide

/-- Without subkeys: `SubkeysNotReady` and the block as it was (42_block.md R140). -/
theorem test_encrypt_without_subkeys :
    nextHas (exec .encrypt { probe with svalid := false }) (fun t =>
      t.block == probe.block && t.statusWord == 0x00000030#32) = true := by decide

set_option maxRecDepth 100000 in
/-- V-F2: `S[i] = i`, a block that no encryption of the vectors gives. -/
theorem test_decrypt_small_subkeys :
    nextHas (exec .decrypt (probe.setBlock ⟨1#32, 2#32, 3#32, 4#32⟩)) (fun t =>
      t.block == ⟨0x837E4F86#32, 0xB15E7F36#32, 0x2EC54CE7#32, 0x106E56C4#32⟩ &&
      t.statusWord == 0x00000000#32) = true := by decide

/-- Without subkeys: `SubkeysNotReady` and the block as it was (42_block.md R140). -/
theorem test_decrypt_without_subkeys :
    nextHas (exec .decrypt { probe with svalid := false }) (fun t =>
      t.block == probe.block && t.statusWord == 0x00000030#32) = true := by decide

/-- The example of 40_primitives.md R109: `A` rotated by 36 mod 32, `B` and `SVALID` as they were. -/
theorem test_rotl_by_36 : nextHas (step (probe.withFetchWord 32 4)) (fun t =>
    t.a == 0x23456781#32 && t.b == 0x00000024#32 && t.statusWord == 0x00000001#32) = true := by decide

/-- 40_primitives.md R104: an amount that is a multiple of 32 is the identity. -/
theorem test_rotl_by_64 :
    nextHas (exec .rotl { probe with b := 64#32 }) (fun t => t.a == 0x12345678#32) = true := by decide

/-- The example of 40_primitives.md R110. -/
theorem test_rotr_by_36 : nextHas (step ({ probe with a := 0x23456781#32 }.withFetchWord 32 5)) (fun t =>
    t.a == 0x12345678#32 && t.b == 0x00000024#32 && t.statusWord == 0x00000001#32) = true := by decide

/-- The example of 40_primitives.md R105 with an amount of 31. -/
theorem test_rotr_by_31 :
    nextHas (exec .rotr { probe with b := 0xFFFFFFFF#32 }) (fun t => t.a == 0x2468ACF0#32) = true := by decide

/-! ### The host port -/

/-- An illegal word: only `ERR` changes (30_encoding.md R83). -/
theorem test_illegal_command : nextHas (step (probeWith [.write 0x000 32 0x00000102#32])) (fun t =>
    t == { probe with err := 4#4 }) = true := by decide

theorem test_read_status : nextHas (step (probeWith [.read 0x004 32])) (fun t =>
    t.returned == some (.word 0x00000041#32)) = true := by decide

theorem test_read_last_subkey : nextHas (step (probeWith [.read 0x1AC 32])) (fun t =>
    t.returned == some (.word 43#32)) = true := by decide

theorem test_write_last_key_byte : nextHas (step (probeWith [.write 0x10FF 8 0xA5#8])) (fun t =>
    t.keyByte 255 == 0xA5#8 && t.keyByte 0 == 0x00#8 && t.svalid) = true := by decide

theorem test_write_subkey_ignored : nextHas (step (probeWith [.write 0x100 32 0xA5A5A5A5#32])) (fun t =>
    t == probe) = true := by decide

theorem test_unmapped_faults :
    step (probeWith [.read 0x1B0 32]) = .fault (.unmappedAddress 0x1B0) := rfl

theorem test_wrong_width_refused :
    step (probeWith [.write 0x010 8 0#8]) = .refused (.wrongWidth .a 8) := rfl

/-- The worked example of 20_memory.md R50. -/
theorem test_pack_little_endian : packWord 0x01#8 0x23#8 0x45#8 0x67#8 = 0x67452301#32 := by decide

/-- V-P3. -/
theorem test_quad5 : quad5 0x12345678#32 = 0xC3C0DF09#32 ∧ quad5 0xFFFFFFFF#32 = 0x00000020#32 := by decide

/-! ### Witnesses: states and operands that meet the hypotheses of each obligation together -/

theorem witness_StepRunsTheDecodedCommand :
    (probeWith [.write 0x000 32 0x00000004#32]).pending =
      .write ((probeWith []).base + 0x000) 32 0x00000004#32 :: [] ∧
    decode 0x00000004#32 = .ok .rotl := by decide

theorem witness_NothingPendingNothingHappens : State.reset.pending = [] := rfl

theorem witness_IllegalWordRaisesIllegalCommand :
    ∀ w ∈ [0x00000000#32, 0x00000006#32, 0x00000102#32, 0xFFFFFFFF#32],
      (probeWith [.write 0x000 32 w]).pending = .write (probe.base + 0x000) 32 w :: [] ∧
      w ≠ 0x00000001#32 ∧ w ≠ 0x00000002#32 ∧ w ≠ 0x00000003#32 ∧ w ≠ 0x00000004#32 ∧ w ≠ 0x00000005#32 := by
  intro w hw
  simp only [List.mem_cons, List.not_mem_nil, or_false] at hw
  rcases hw with rfl | rfl | rfl | rfl <;> exact ⟨rfl, by decide⟩

theorem witness_ResetDefinesControlState : (probeWith [.reset]).pending = .reset :: [] := rfl

theorem witness_FirstCommandsAfterReset :
    ∃ t, (probeWith [.reset]).pending = .reset :: [] ∧ step (probeWith [.reset]) = .next t := ⟨_, rfl, rfl⟩

/-- The clauses on the amount of both rotation statements, and the bit positions, at their ends. -/
theorem witness_RotationsMoveEveryBit :
    1 ≤ (1#32 : Word).toNat % 32 ∧ 1 ≤ (0xFFFFFFFF#32 : Word).toNat % 32 ∧ (0xFFFFFFFF#32 : Word).toNat % 32 = 31 ∧
    (0#32 : Word).toNat % 32 = 0 ∧ (64#32 : Word).toNat % 32 = 0 ∧ 0 < 32 ∧ 31 < 32 := by decide

theorem witness_InitialSubkeysClosedForm : 0 < 44 ∧ 43 < 44 := by decide

/-- One state for each clause: the empty key, a length that is too long and no multiple of 4, the first length that
does not fit, and a capacity without bound. -/
theorem witness_KeyexpRejectsBadLengths :
    (probeKlen 0).klen = 0#32 ∧ (probeKlen 257).klen.toNat % 4 ≠ 0 ∧
    ((probeKlen 260).bmax = .bytes 256 ∧ (probeKlen 260).klen ≠ 0#32 ∧ (probeKlen 260).klen.toNat % 4 = 0 ∧
      256 < (probeKlen 260).klen.toNat) ∧
    (∃ t, exec .keyexp (probeKlen 260) = .next t) ∧
    ({ probeKlen 260 with bmax := .unbounded }).bmax = .unbounded ∧
    ∃ t, exec .keyexp { probeKlen 260 with bmax := .unbounded } = .next t := by
  refine ⟨by decide, by decide, by decide, exec_next _ _, rfl, exec_next _ _⟩

/-- The shortest key, the longest key of a bounded buffer, and the longest of all. -/
theorem witness_KeyexpFollowsTheRecurrences :
    ∀ s ∈ [probeKlen 4, probeKlen 256, { probeKlen 0xFFFFFFFC with bmax := .unbounded }],
      s.klen ≠ 0#32 ∧ s.klen.toNat % 4 = 0 ∧ Capacity.fits s.bmax s.klen.toNat = true := by decide

/-- The pair differs in the block, in `S`, `L` and in a key byte that the key length leaves out. -/
theorem witness_SubkeysDependOnKeyOnly :
    probe.keyLengthOk ∧ probe.keyWritten ∧
    (let s := { probe with a := 0#32, subkeys := initialSubkeys, keyWords := [], key := probe.key ++ [(16, 1#8)] }
     s.keyLengthOk ∧ s.klen = probe.klen ∧
       ∀ n, n < probe.klen.toNat → Memory.read? probe.key n = Memory.read? s.key n) := by
  refine ⟨by unfold State.keyLengthOk; decide, ?_, by unfold State.keyLengthOk; decide, rfl, by decide⟩
  intro n hn
  have h : ∀ n < 16, (Memory.read? probe.key n).isSome = true := by decide
  exact Option.isSome_iff_exists.mp (h n hn)

theorem witness_TransformsTestSvalid :
    probe.svalid = true ∧ ({ probe with svalid := false }).svalid = false := ⟨rfl, rfl⟩

theorem witness_EncryptFollowsTheRounds :
    probe.svalid = true ∧ ({ probe with svalid := false }).svalid = false ∧ 0 < 20 ∧ 19 < 20 := by decide

theorem witness_DecryptFollowsTheRounds :
    probe.svalid = true ∧ ({ probe with svalid := false }).svalid = false ∧ 0 < 20 ∧ 19 < 20 := by decide

/-- The command script stands in a state with a written key of an accepted length. -/
theorem witness_TransformsAreInverse :
    let s := probeWith (scriptAccesses 0 [.command .keyexp, .command .encrypt, .command .keyexp, .command .decrypt])
    s.keyLengthOk ∧ s.keyWritten ∧ s.pending = scriptAccesses s.base
      [.command .keyexp, .command .encrypt, .command .keyexp, .command .decrypt] :=
  ⟨witness_SubkeysDependOnKeyOnly.1, witness_SubkeysDependOnKeyOnly.2.1, rfl⟩

/-- The pair differs in all the state that the statement says does not matter. -/
theorem witness_TransformsDependOnBlockAndSubkeys :
    let s := { probe with klen := 0#32, key := [], keyWords := [], ka := 0#32, kb := 0#32, err := 0#4 }
    probe.svalid = true ∧ s.svalid = true ∧ probe.block = s.block ∧ probe.subkeys = s.subkeys ∧ probe ≠ s := by
  decide

theorem witness_SubkeysAreSingleUse : probe.svalid = true := rfl

/-- Both ends of every range of the map; `KEY[255]` is the last byte of a buffer of 256. -/
theorem witness_WindowMapIsExact :
    regAtOffset (.bytes 256) 0x100 = some (.subkey 0) ∧ regAtOffset (.bytes 256) 0x1AC = some (.subkey 43) ∧
    regAtOffset (.bytes 256) 0x1000 = some (.key 0) ∧ regAtOffset (.bytes 256) 0x10FF = some (.key 255) ∧
    regAtOffset (.bytes 256) 0x1100 = none ∧ regAtOffset .unbounded 0x1100 = some (.key 256) ∧
    regAtOffset (.bytes 256) 0x00C = none ∧ regAtOffset (.bytes 256) 0x1B0 = none := by decide

theorem witness_MeaninglessAccessStops :
    ((probeWith [.read 0x1100 8]).pending = .read 0x1100 8 :: [] ∧ regAtAddress (.bytes 256) 0 0x1100 = none) ∧
    (probeWith [.write 0x010 8 1#8]).pending = .write 0x010 8 1#8 :: [] ∧
      regAtAddress (.bytes 256) 0 0x010 = some .a ∧ 8 ≠ HostReg.width .a := by decide

/-- One pending write for each clause; the last subkey and the last key byte. -/
theorem witness_HostWritesChangeOneRegister :
    (∀ off ∈ [0x004, 0x008, 0x010, 0x014, 0x018, 0x01C, 0x100 + 4 * 0, 0x100 + 4 * 43],
      (probeWith [.write (probe.base + off) 32 7#32]).pending = .write (probe.base + off) 32 7#32 :: []) ∧
    (probeWith [.write (probe.base + 0x1000 + 255) 8 7#8]).pending =
      .write (probe.base + 0x1000 + 255) 8 7#8 :: [] ∧ probe.bmax = .bytes 256 ∧ 255 < 256 := by decide

/-- One pending read for each clause; a written key byte. -/
theorem witness_HostReadsAnswerTheRegister :
    (∀ off ∈ [0x000, 0x004, 0x008, 0x010, 0x014, 0x018, 0x01C],
      (probeWith [.read (probe.base + off) 32]).pending = .read (probe.base + off) 32 :: []) ∧
    (probeWith [.read (probe.base + 0x1000 + 15) 8]).pending = .read (probe.base + 0x1000 + 15) 8 :: [] ∧
    probe.bmax = .bytes 256 ∧ 15 < 256 ∧ Memory.read? probe.key 15 = some 0#8 := by decide

theorem witness_SubkeyReadPort :
    (probeWith [.read (probe.base + 0x100 + 4 * 43) 32]).pending = .read (probe.base + 0x100 + 4 * 43) 32 :: [] ∧
    43 < 44 ∧ probe.svalid = true ∧ ({ probe with svalid := false }).svalid = false := by decide

/-- A read of a subkey while `SVALID = 1`, a read of a written key byte, a repeated data write, a transform. -/
theorem witness_OnlyCommandWritesHaveSideEffects :
    (regAtAddress (.bytes 256) 0 0x1AC = some (.subkey 43) ∧
      nextHas (step (probeWith [.read 0x1AC 32])) (fun _ => true) = true ∧ probe.svalid = true) ∧
    (regAtAddress (.bytes 256) 0 0x100F = some (.key 15) ∧
      nextHas (step (probeWith [.read 0x100F 8])) (fun _ => true) = true ∧
      Memory.read? probe.key 15 = some 0#8) ∧
    (0x010 ≠ probe.base ∧ nextHas (step (probeWith [.write 0x010 32 7#32])) (fun _ => true) = true) ∧
    nextHas (exec .encrypt probe) (fun _ => true) = true := by decide

/-- A key that fills a bounded buffer, and the empty key. -/
theorem witness_LoadKeyScriptLoadsTheKey :
    (List.replicate 256 (0xA5#8 : Byte)).length = 256 ∧ 256 < 2 ^ 32 ∧ probe.bmax = .bytes 256 ∧
    (probeWith (scriptAccesses 0 (loadKey (List.replicate 256 0xA5#8)) ++ [.read 0x004 32])).pending =
      scriptAccesses probe.base (loadKey (List.replicate 256 0xA5#8)) ++ [.read 0x004 32] ∧
    scriptAccesses 0 (loadKey []) = [.write 0x008 32 0#32] := ⟨List.length_replicate, by norm_num, rfl, rfl, rfl⟩

/-- Every row of the fault table is the outcome of some step of a state that has the command pending. -/
theorem witness_ErrIsTheOutcomeOfTheCommand :
    nextHas (step ((probeKlen 0).withFetchWord 32 1)) (fun t => t.err == 1#4) = true ∧
    nextHas (step ((probeKlen 5).withFetchWord 32 1)) (fun t => t.err == 1#4) = true ∧
    nextHas (step ((probeKlen 260).withFetchWord 32 1)) (fun t => t.err == 2#4) = true ∧
    nextHas (step ({ probe with svalid := false }.withFetchWord 32 2)) (fun t => t.err == 3#4) = true ∧
    nextHas (step ({ probe with svalid := false }.withFetchWord 32 3)) (fun t => t.err == 3#4) = true ∧
    nextHas (step (probe.withFetchWord 32 4)) (fun t => t.err == 0#4) = true ∧
    nextHas (step (probe.withFetchWord 32 0)) (fun t => t.err == 4#4) = true ∧
    nextHas (step (probe.withFetchWord 32 6)) (fun t => t.err == 4#4) = true := by decide

/-- A `CMD` write that leaves each of the four codes: the same steps, under the premise of the frame of faults. -/
theorem witness_FaultsWriteStatusOnly :
    ∃ t, (probeWith [.write 0x000 32 6#32]).pending = .write (probe.base + 0x000) 32 6#32 :: [] ∧
      step (probeWith [.write 0x000 32 6#32]) = .next t ∧ t.err ≠ 0#4 := ⟨_, rfl, rfl, by decide⟩

/-- Each clause's event, pending, is taken by a step. -/
theorem witness_SvalidFollowsCommands :
    ∀ e ∈ [.reset, .write probe.base 32 0x00000001#32, .write probe.base 32 0x00000002#32,
        .write probe.base 32 0x00000003#32, .write probe.base 32 0x00000004#32, .write 0x010 32 0#32, .read 0x010 32],
      (probeWith [e]).pending = e :: [] ∧ ∃ t, step (probeWith [e]) = .next t := by
  intro e he
  refine ⟨rfl, ?_⟩
  simp only [List.mem_cons, List.not_mem_nil, or_false] at he
  rcases he with rfl | rfl | rfl | rfl | rfl | rfl | rfl
  · exact ⟨_, rfl⟩
  · exact exec_next .keyexp probe
  · exact exec_next .encrypt probe
  · exact exec_next .decrypt probe
  · exact exec_next .rotl probe
  · exact ⟨_, rfl⟩
  · exact ⟨_, rfl⟩

theorem witness_ErrStandsUntilTheNextCommand :
    ∃ t, (probeWith [.write 0x008 32 0#32]).pending = .write 0x008 32 0#32 :: [] ∧
      step (probeWith [.write 0x008 32 0#32]) = .next t ∧ (.write 0x008 32 0#32 : HostEvent) ≠ .reset ∧
      ∀ w : Word, (.write 0x008 32 0#32 : HostEvent) ≠ .write probe.base 32 w := by
  refine ⟨_, rfl, rfl, by decide, fun w h => ?_⟩
  cases h

/-- All seven words occur, and a step is taken from a state that reads as the last of them. -/
theorem witness_StatusStaysLegal :
    probe.statusWord = 0x00000041#32 ∧ probe.statusWord ∈ legalStatusWords ∧
    nextHas (step (probe.withFetchWord 32 4)) (fun t => t.statusWord == 0x00000001#32) = true := by decide

theorem witness_OnlyKeyexpWritesSubkeys :
    ∃ t, (probeWith [.write 0x000 32 2#32]).pending = .write 0x000 32 2#32 :: [] ∧
      step (probeWith [.write 0x000 32 2#32]) = .next t ∧ (.write 0x000 32 2#32 : HostEvent) ≠ .reset ∧
      (.write 0x000 32 2#32 : HostEvent) ≠ .write probe.base 32 0x00000001#32 := ⟨_, rfl, rfl, by decide, by decide⟩

theorem witness_OnlyTheHostWritesTheKey :
    ∃ t, (probeWith [.write 0x010 32 2#32]).pending = .write 0x010 32 2#32 :: [] ∧
      step (probeWith [.write 0x010 32 2#32]) = .next t ∧ (.write 0x010 32 2#32 : HostEvent) ≠ .reset ∧
      (∀ v : Word, (.write 0x010 32 2#32 : HostEvent) ≠ .write (probe.base + 0x008) 32 v) ∧
      ∀ (n : Nat) (v : Byte), (.write 0x010 32 2#32 : HostEvent) ≠ .write (probe.base + 0x1000 + n) 8 v := by
  refine ⟨_, rfl, rfl, by decide, fun v h => ?_, fun n v h => ?_⟩
  · injection h with h; exact absurd h (by decide)
  · injection h with _ h; exact absurd h (by decide)

theorem witness_ParametersNeverChange : ∃ t, step (probe.withFetchWord 32 4) = .next t := ⟨_, rfl⟩

/-- A state that no reset leaves meets the invariant, and a step is taken from it. -/
theorem witness_StepsKeepTheInvariant :
    (probe.withFetchWord 32 4).Inv ∧ ∃ t, step (probe.withFetchWord 32 4) = .next t := by
  refine ⟨⟨by decide, by decide, by decide, by decide, rfl, by decide⟩, _, rfl⟩

theorem witness_WellBehavedHostIsNeverStopped :
    (probeWith [.write 0x000 32 0x00000102#32, .read 0x10FF 8, .reset]).hostWellBehaved := by
  unfold State.hostWellBehaved; decide

/-- The pair differs in `L`, `LW`, `KA`, `KB`, `SEQ` and, `SVALID` being 0, in `S`. -/
theorem witness_HiddenStateIsUnobservable :
    let s := { probe with svalid := false }
    let t := { s with ka := 0#32, kb := 0#32, lw := 0#32, keyWords := [], seq := .init 3, subkeys := initialSubkeys }
    s.sameToHost t ∧ s.subkeys ≠ t.subkeys := by
  refine ⟨⟨rfl, rfl, rfl, rfl, rfl, (fun h => by cases h), rfl, rfl, rfl, rfl, rfl⟩, by decide⟩

/-- An idle sequencer, and a command of each step count. -/
theorem witness_SequencerRefinesTheCommands :
    probe.seq = .idle ∧ commandSteps .keyexp probe = 179 ∧ commandSteps .encrypt probe = 22 ∧
    commandSteps .rotl probe = 0 ∧ 178 < commandSteps .keyexp probe := by decide

end Sys2Proof.Tests
end

section
/-! PROOFS. The memory family: how four key bytes make a key word, and what a host read of a mapped register does. -/

namespace Sys2Proof.Machine

/-! ### Key words -/

/-- A byte appended below a vector is added to 2^8 times its value, without a wrap. -/
theorem toNat_append_byte {w : Nat} (hi : BitVec w) (lo : Byte) : (hi ++ lo).toNat = lo.toNat + hi.toNat * 2 ^ 8 := by
  rw [BitVec.toNat_append, ← Nat.shiftLeft_add_eq_or_of_lt lo.isLt, Nat.shiftLeft_eq, Nat.add_comm]

section
variable (b0 b1 b2 b3 : Byte)

theorem packWord_toNat :
    (packWord b0 b1 b2 b3).toNat = b0.toNat + b1.toNat * 2 ^ 8 + b2.toNat * 2 ^ 16 + b3.toNat * 2 ^ 24 := by
  simp only [packWord, toNat_append_byte]
  ring

@[simp] theorem packWord_extractLsb'_0 : (packWord b0 b1 b2 b3).extractLsb' 0 8 = b0 :=
  BitVec.extractLsb'_append_eq_right

@[simp] theorem packWord_extractLsb'_8 : (packWord b0 b1 b2 b3).extractLsb' 8 8 = b1 :=
  (BitVec.extractLsb'_append_eq_of_le (by decide)).trans BitVec.extractLsb'_append_eq_right

@[simp] theorem packWord_extractLsb'_16 : (packWord b0 b1 b2 b3).extractLsb' 16 8 = b2 :=
  (BitVec.extractLsb'_append_eq_of_le (by decide)).trans <|
    (BitVec.extractLsb'_append_eq_of_le (by decide)).trans BitVec.extractLsb'_append_eq_right

@[simp] theorem packWord_extractLsb'_24 : (packWord b0 b1 b2 b3).extractLsb' 24 8 = b3 :=
  (BitVec.extractLsb'_append_eq_of_le (by decide)).trans <|
    (BitVec.extractLsb'_append_eq_of_le (by decide)).trans BitVec.extractLsb'_append_eq_left

end

/-! ### Reads of the window -/

/-- The window's map inverts `HostReg.offset` on the registers the block has (20_memory.md R57). -/
theorem regAtAddress_offset {cap : Capacity} {r : HostReg} (base : Nat) (h : r.present cap = true) :
    regAtAddress cap base (base + r.offset) = some r := by
  rw [regAtAddress, if_pos (Nat.le_add_right base _), Nat.add_sub_cancel_left]
  cases r with
  | subkey i =>
    have hi := i.isLt
    have hne : ∀ off < 0x100, 0x100 + 4 * i.val ≠ off := by omega
    have hin : 0x100 ≤ 0x100 + 4 * i.val ∧ 0x100 + 4 * i.val ≤ 0x1AC ∧ (0x100 + 4 * i.val) % 4 = 0 := by omega
    simp [regAtOffset, HostReg.offset, hne, hin]
  | key n =>
    have hindex : Capacity.indexes cap n = true := h
    have hne : ∀ off < 0x1000, 0x1000 + n ≠ off := by omega
    have hout : ¬ 0x1000 + n ≤ 0x1AC := by omega
    simp [regAtOffset, HostReg.offset, hne, hout, hindex]
  | _ => rfl

/-- A read of a mapped register in its own width completes and answers the register's value (20_memory.md R55). -/
theorem step_of_read {s : State} {rest : List HostEvent} {addr : Nat} {r : HostReg}
    (hp : s.pending = .read addr r.width :: rest) (hr : regAtAddress s.bmax s.base addr = some r) :
    step s = .next (State.hostRead { s with pending := rest } r) := by
  simp [step, hp, hostEvent, accessRegister, hr]

/-- What a read of `S[i]` answers while `SVALID = 1` (20_memory.md R59). -/
theorem hostReadValue_subkey_of_svalid {s : State} (i : Fin 44) (h : s.svalid = true) :
    s.hostReadValue (.subkey i) = .word s.subkeys[i] := by
  simp [State.hostReadValue, h, subkeyAt_of_lt]

/-- Some word is answered to every read of `S[i]`, and it is the subkey while `SVALID = 1` (20_memory.md R59). -/
theorem exists_hostReadValue_subkey (s : State) (i : Fin 44) :
    ∃ v, s.hostReadValue (.subkey i) = .word v ∧ (s.svalid = true → v = s.subkeys[i]) :=
  ⟨_, rfl, fun h => Datum.word.inj (hostReadValue_subkey_of_svalid i h)⟩

end Sys2Proof.Machine

namespace Sys2Proof.Proofs

open Sys2Proof.Machine

/-- Settles O16: a key word is `packWord` of its four bytes, whose bit fields and sum are known (20_memory.md R50). -/
theorem keyWordsPackLittleEndian : Obligations.KeyWordsPackLittleEndian := by
  intro s k
  rw [State.packedWord]
  exact ⟨packWord_extractLsb'_0 .., packWord_extractLsb'_8 .., packWord_extractLsb'_16 ..,
    packWord_extractLsb'_24 .., packWord_toNat ..⟩

/-- Settles O31: the address is that of the present register `S[i]`, so the read completes with what the port answers
for it (20_memory.md R59). -/
theorem subkeyReadPort : Obligations.SubkeyReadPort := by
  intro s i hi rest hp
  have hreg : regAtAddress s.bmax s.base (s.base + 0x100 + 4 * i) = some (.subkey ⟨i, hi⟩) := by
    rw [Nat.add_assoc]
    exact regAtAddress_offset (r := .subkey ⟨i, hi⟩) s.base rfl
  obtain ⟨v, hv, hsubkey⟩ := exists_hostReadValue_subkey { s with pending := rest } ⟨i, hi⟩
  exact ⟨_, v, step_of_read hp hreg, congrArg some hv, hsubkey⟩

end Sys2Proof.Proofs
end

section
/-! PROOFS. The encoding family: the words that decode, and what a host write of a mapped register does. -/

namespace Sys2Proof.Machine

/-- Every row of the opcode map compares the whole word with its command's word (30_encoding.md R81). -/
theorem opcodeMap_row_eq {r : OpcodeRow} (h : r ∈ opcodeMap) : r.mask = .allOnes 32 ∧ r.pattern = encode r.instr :=
  (by decide : ∀ r ∈ opcodeMap, r.mask = .allOnes 32 ∧ r.pattern = encode r.instr) r h

/-- A word that decodes to a command is the command's one word (30_encoding.md R81, R83). -/
theorem eq_encode_of_decode {w : Word} {i : Instr} (h : decode w = .ok i) : w = encode i := by
  unfold decode at h
  split at h
  next r hfind =>
    obtain ⟨hmask, hpattern⟩ := opcodeMap_row_eq (List.mem_of_find?_eq_some hfind)
    have hselects : r.selects w = true := List.find?_some (p := (OpcodeRow.selects · w)) hfind
    have hword : w &&& r.mask = r.pattern := eq_of_beq hselects
    rw [hmask, BitVec.and_allOnes, hpattern] at hword
    exact hword.trans (congrArg encode (Except.ok.inj h))
  next => cases h

/-- A `CMD` write of a word that is no command's word raises `IllegalCommand` (60_exceptions.md R164). -/
theorem commandWrite_of_ne_encode {w : Word} (s : State) (h : ∀ i, w ≠ encode i) :
    commandWrite w s = .next (s.raiseFault .illegalCommand) := by
  rcases commandWrite_cases w s with ⟨i, hdecode, -⟩ | ⟨-, hfault⟩
  · exact absurd (eq_encode_of_decode hdecode) (h i)
  · exact hfault

/-- A write of a mapped register in its own width is the host write of that register (20_memory.md R55). -/
theorem step_of_write {s : State} {rest : List HostEvent} {addr : Nat} {r : HostReg} {v : BitVec r.width}
    (hp : s.pending = .write addr r.width v :: rest) (hr : regAtAddress s.bmax s.base addr = some r) :
    step s = hostWrite r (v.setWidth 32) { s with pending := rest } := by
  simp [step, hp, hostEvent, accessRegister, hr]

/-- A write of a word to `CMD`, the register at `BASE`, is a command write (10_state.md R28). -/
theorem step_of_write_cmd {s : State} {rest : List HostEvent} {w : Word}
    (hp : s.pending = .write (s.base + 0x000) 32 w :: rest) :
    step s = commandWrite w { s with pending := rest } :=
  (step_of_write (r := .cmd) hp (regAtAddress_offset (r := .cmd) s.base rfl)).trans
    (congrArg (commandWrite · _) w.setWidth_eq)

end Sys2Proof.Machine

namespace Sys2Proof.Proofs

open Sys2Proof.Machine

/-- Settles O6: the five excluded words are the words of the five commands, so the write raises `IllegalCommand`, which
writes code 4 and leaves `SVALID` (30_encoding.md R83, 60_exceptions.md R164). -/
theorem illegalWordRaisesIllegalCommand : Obligations.IllegalWordRaisesIllegalCommand := by
  intro s w rest hp hkeyexp hencrypt hdecrypt hrotl hrotr
  have hne : ∀ i, w ≠ encode i
    | .keyexp => hkeyexp
    | .encrypt => hencrypt
    | .decrypt => hdecrypt
    | .rotl => hrotl
    | .rotr => hrotr
  calc step s = commandWrite w { s with pending := rest } := step_of_write_cmd hp
    _ = .next (State.raiseFault { s with pending := rest } .illegalCommand) := commandWrite_of_ne_encode _ hne
    _ = .next { s with pending := rest, err := 4#4 } := rfl

end Sys2Proof.Proofs
end

section
/-! PROOFS. The primitives family: the wrapping word functions, where the rotations move each bit, and the rotate
commands. -/

namespace Sys2Proof.Machine

/-! ### Wrapping arithmetic -/

theorem toNat_sub32 (x y : Word) :
    (sub32 x y).toNat = if y.toNat ≤ x.toNat then x.toNat - y.toNat else x.toNat + 2 ^ 32 - y.toNat := by
  unfold sub32
  split
  next hle => exact BitVec.toNat_sub_of_le hle
  next hnle =>
    have hlt : x.toNat < y.toNat := Nat.lt_of_not_ge hnle
    have hy := y.isLt
    rw [BitVec.toNat_sub_of_lt hlt]
    omega

@[simp] theorem sub32_add32 (x y : Word) : sub32 (add32 x y) y = x := BitVec.add_sub_cancel x y

/-- A bit of the exclusive or is set where the operands differ (40_primitives.md R103). -/
theorem getLsbD_xor32_iff (x y : Word) (n : Nat) :
    (xor32 x y).getLsbD n = true ↔ x.getLsbD n ≠ y.getLsbD n := by
  rw [xor32, BitVec.getLsbD_xor]
  exact bne_iff_ne

@[simp] theorem xor32_xor32 (x y : Word) : xor32 (xor32 x y) y = x := by
  simp only [xor32, BitVec.xor_assoc, BitVec.xor_self, BitVec.xor_zero]

/-! ### Where a rotation moves a bit -/

theorem rotationAmount_lt (ctl : Word) : rotationAmount ctl < 32 := Nat.mod_lt _ (by decide)

@[simp] theorem rotationAmount_ofNat {n : Nat} (h : n < 32) : rotationAmount (BitVec.ofNat 32 n) = n := by
  rw [rotationAmount, BitVec.toNat_ofNat]
  omega

/-- Bit `k` of the right rotation is bit `(k + n) mod 32` of the word (40_primitives.md R105). -/
theorem getLsbD_rotr32 (val amount : Word) {k : Nat} (hk : k < 32) :
    (rotr32 val amount).getLsbD k = val.getLsbD ((k + rotationAmount amount) % 32) := by
  have hn := rotationAmount_lt amount
  rw [rotr32, BitVec.getLsbD_rotateRight_of_lt hn]
  by_cases hwrap : k < 32 - rotationAmount amount
  · rw [decide_eq_true hwrap, cond_true]
    congr 1; omega
  · rw [decide_eq_false hwrap, cond_false, decide_eq_true hk, Bool.true_and]
    congr 1; omega

/-- Bit `k` of the left rotation is bit `(k + 32 - n) mod 32` of the word. -/
theorem getLsbD_rotl32 (val amount : Word) {k : Nat} (hk : k < 32) :
    (rotl32 val amount).getLsbD k = val.getLsbD ((k + (32 - rotationAmount amount)) % 32) := by
  have hn := rotationAmount_lt amount
  rw [rotl32, BitVec.getLsbD_rotateLeft_of_le hn]
  by_cases hwrap : k < rotationAmount amount
  · rw [decide_eq_true hwrap, cond_true]
    congr 1; omega
  · rw [decide_eq_false hwrap, cond_false, decide_eq_true hk, Bool.true_and]
    congr 1; omega

/-- The left rotation moves bit `k` to bit `(k + n) mod 32` (40_primitives.md R104). -/
theorem getLsbD_rotl32_add (val amount : Word) {k : Nat} (hk : k < 32) :
    (rotl32 val amount).getLsbD ((k + rotationAmount amount) % 32) = val.getLsbD k := by
  have hn := rotationAmount_lt amount
  rw [getLsbD_rotl32 _ _ (Nat.mod_lt _ (by decide))]
  congr 1; omega

@[simp] theorem rotr32_rotl32 (x n : Word) : rotr32 (rotl32 x n) n = x := by
  refine BitVec.eq_of_getLsbD_eq fun k hk => ?_
  rw [getLsbD_rotr32 _ _ hk, getLsbD_rotl32_add _ _ hk]

@[simp] theorem rotl32_rotr32 (x n : Word) : rotl32 (rotr32 x n) n = x := by
  have hn := rotationAmount_lt n
  refine BitVec.eq_of_getLsbD_eq fun k hk => ?_
  rw [getLsbD_rotl32 _ _ hk, getLsbD_rotr32 _ _ (Nat.mod_lt _ (by decide))]
  congr 1; omega

/-- A right rotation by `n` is the left rotation by `(32 - n) mod 32` (40_primitives.md R105). -/
theorem rotr32_eq_rotl32 (val amount : Word) :
    rotr32 val amount = rotl32 val (BitVec.ofNat 32 ((32 - rotationAmount amount) % 32)) := by
  have hn := rotationAmount_lt amount
  refine BitVec.eq_of_getLsbD_eq fun k hk => ?_
  rw [getLsbD_rotr32 _ _ hk, getLsbD_rotl32 _ _ hk, rotationAmount_ofNat (Nat.mod_lt _ (by decide))]
  congr 1; omega

/-! ### Words that a rotation fixes -/

theorem rotl32_of_rotationAmount_eq_zero (val : Word) {amount : Word} (h : rotationAmount amount = 0) :
    rotl32 val amount = val := by
  refine BitVec.eq_of_getLsbD_eq fun k hk => ?_
  have hmoves := getLsbD_rotl32_add val amount hk
  rwa [h, Nat.add_zero, Nat.mod_eq_of_lt hk] at hmoves

@[simp] theorem rotl32_zero (amount : Word) : rotl32 0#32 amount = 0#32 := by
  refine BitVec.eq_of_getLsbD_eq fun k hk => ?_
  rw [getLsbD_rotl32 _ _ hk, BitVec.getLsbD_zero, BitVec.getLsbD_zero]

@[simp] theorem rotl32_allOnes (amount : Word) : rotl32 (.allOnes 32) amount = .allOnes 32 := by
  refine BitVec.eq_of_getLsbD_eq fun k hk => ?_
  rw [getLsbD_rotl32 _ _ hk, BitVec.getLsbD_allOnes, BitVec.getLsbD_allOnes, decide_eq_true hk,
    decide_eq_true (Nat.mod_lt _ (by decide))]

/-- What a left rotation fixes, the right rotation by the same amount fixes too. -/
theorem rotr32_eq_self_of_rotl32 {val amount : Word} (h : rotl32 val amount = val) : rotr32 val amount = val :=
  calc rotr32 val amount = rotr32 (rotl32 val amount) amount := by rw [h]
    _ = val := rotr32_rotl32 val amount

/-! ### The arithmetic form -/

/-- The bits that a left shift keeps in the word and the bits that wrap around do not overlap, so their union is their
sum. -/
theorem shiftLeft_or_shiftRight_eq_add {w n x : Nat} (hn : n ≤ w) (hx : x < 2 ^ w) :
    x <<< n % 2 ^ w ||| x >>> (w - n) = x * 2 ^ n % 2 ^ w + x / 2 ^ (w - n) := by
  have hpow : 2 ^ w = 2 ^ (w - n) * 2 ^ n := by rw [← pow_add, Nat.sub_add_cancel hn]
  have hkept : x * 2 ^ n % 2 ^ w = (x % 2 ^ (w - n)) <<< n := by
    rw [hpow, Nat.mul_mod_mul_right, Nat.shiftLeft_eq]
  have hwrapped : x / 2 ^ (w - n) < 2 ^ n := Nat.div_lt_of_lt_mul (hpow ▸ hx)
  rw [Nat.shiftLeft_eq, Nat.shiftRight_eq_div_pow, hkept, Nat.shiftLeft_add_eq_or_of_lt hwrapped]

theorem toNat_rotl32 (val amount : Word) :
    (rotl32 val amount).toNat =
      val.toNat * 2 ^ rotationAmount amount % 2 ^ 32 + val.toNat / 2 ^ (32 - rotationAmount amount) := by
  have hn := rotationAmount_lt amount
  rw [rotl32, BitVec.toNat_rotateLeft, Nat.mod_eq_of_lt hn, shiftLeft_or_shiftRight_eq_add hn.le val.isLt]

/-- The arithmetic form of the right rotation is that of the left rotation by `32 - n` (40_primitives.md R105). -/
theorem toNat_rotr32 (val : Word) {amount : Word} (h : 1 ≤ rotationAmount amount) :
    (rotr32 val amount).toNat =
      val.toNat / 2 ^ rotationAmount amount + val.toNat * 2 ^ (32 - rotationAmount amount) % 2 ^ 32 := by
  have hn := rotationAmount_lt amount
  have hlt : 32 - rotationAmount amount < 32 := by omega
  rw [rotr32_eq_rotl32, Nat.mod_eq_of_lt hlt, toNat_rotl32, rotationAmount_ofNat hlt, Nat.sub_sub_self hn.le,
    Nat.add_comm]

/-! ### The rotate commands -/

/-- `ROTL` writes `A` and clears `ERR` (40_primitives.md R109). -/
theorem exec_rotl (s : State) : exec .rotl s = .next { s with a := rotl32 s.a s.b, err := 0#4 } := rfl

/-- `ROTR` writes `A` and clears `ERR` (40_primitives.md R110). -/
theorem exec_rotr (s : State) : exec .rotr s = .next { s with a := rotr32 s.a s.b, err := 0#4 } := rfl

end Sys2Proof.Machine

namespace Sys2Proof.Proofs

open Sys2Proof.Machine

/-- Settles O9: each clause is the wrapping law of its function (40_primitives.md R100 to R103). -/
theorem wordArithmeticWraps : Obligations.WordArithmeticWraps := by
  intro x y z
  exact ⟨BitVec.toNat_add x y, BitVec.add_assoc x y z, BitVec.add_comm x y, toNat_sub32 x y, sub32_add32 x y,
    BitVec.toNat_mul x y, getLsbD_xor32_iff x y, xor32_xor32 x y⟩

/-- Settles O10: the permutation gives the fixed words and the identity, the disjoint shifts the arithmetic form
(40_primitives.md R104). -/
theorem rotateLeftMovesEveryBit : Obligations.RotateLeftMovesEveryBit := by
  intro val amount
  exact ⟨fun _ hk => getLsbD_rotl32_add val amount hk, fun _ => toNat_rotl32 val amount,
    rotl32_of_rotationAmount_eq_zero val, rotl32_zero amount, rotl32_allOnes amount⟩

/-- Settles O11: the right rotation is a left rotation, and fixes what the left rotation fixes (40_primitives.md
R105). -/
theorem rotateRightMovesEveryBit : Obligations.RotateRightMovesEveryBit := by
  intro val amount
  exact ⟨fun _ hk => getLsbD_rotr32 val amount hk, toNat_rotr32 val,
    fun h => rotr32_eq_self_of_rotl32 (rotl32_of_rotationAmount_eq_zero val h), rotr32_eq_rotl32 val amount,
    rotr32_eq_self_of_rotl32 (rotl32_zero amount), rotr32_eq_self_of_rotl32 (rotl32_allOnes amount)⟩

/-- Settles O12: bit by bit, the two permutations are inverse (40_primitives.md R106). -/
theorem rotationsUndoEachOther : Obligations.RotationsUndoEachOther := by
  intro x n
  exact ⟨rotr32_rotl32 x n, rotl32_rotr32 x n⟩

/-- Settles O14: the next state is the one `exec_rotl` names, and the left rotation moves the bits of its `A`
(40_primitives.md R109). -/
theorem rotlCommandRotatesA : Obligations.RotlCommandRotatesA := by
  refine ⟨rfl, fun s => ⟨_, exec_rotl s, fun k hk => ?_, rfl⟩⟩
  exact getLsbD_rotl32_add s.a s.b hk

/-- Settles O15: `exec_rotr` names the next state; after `ROTL` it is the old state with `ERR` 0, as the right rotation
undoes the left one and `B` is untouched (40_primitives.md R110). -/
theorem rotrCommandRotatesA : Obligations.RotrCommandRotatesA := by
  refine ⟨rfl, fun s => ⟨⟨_, exec_rotr s, fun k hk => ?_, rfl⟩, _, exec_rotl s, ?_⟩⟩
  · exact getLsbD_rotr32 s.a s.b hk
  · rw [exec_rotr, rotr32_rotl32]

end Sys2Proof.Proofs
end

section
/-! PROOFS. The key schedule family: which key lengths `KEYEXP` rejects, and the mixing recurrences. -/

namespace Sys2Proof.Machine

/-! ### The check of the key length -/

theorem fits_iff (cap : Capacity) (n : Nat) : Capacity.fits cap n = true ↔ ∀ m, cap = .bytes m → n ≤ m := by
  cases cap with
  | unbounded => simp [Capacity.fits]
  | bytes m => simp [Capacity.fits]

/-- Only a capacity with a bound can be too small for a key (20_memory.md R58). -/
theorem not_fits_iff (cap : Capacity) (n : Nat) : ¬ Capacity.fits cap n = true ↔ ∃ m, cap = .bytes m ∧ m < n := by
  simp [fits_iff]

theorem keyLengthFault_eq_invalidKeyLength_iff (s : State) :
    keyLengthFault s = some .invalidKeyLength ↔ s.klen = 0#32 ∨ s.klen.toNat % 4 ≠ 0 := by
  unfold keyLengthFault
  by_cases hzero : s.klen = 0#32
  · simp [hzero]
  · by_cases hmod : s.klen.toNat % 4 = 0
    · simp [hzero, hmod]
    · simp [hmod]

theorem keyLengthFault_eq_resourceError_iff (s : State) :
    keyLengthFault s = some .resourceError ↔
      s.klen ≠ 0#32 ∧ s.klen.toNat % 4 = 0 ∧ ∃ m, s.bmax = .bytes m ∧ m < s.klen.toNat := by
  rw [← not_fits_iff]
  unfold keyLengthFault
  by_cases hzero : s.klen = 0#32
  · simp [hzero]
  · by_cases hmod : s.klen.toNat % 4 = 0
    · simp [hzero, hmod]
    · simp [hmod]

theorem faultCode_injective : Function.Injective faultCode := by
  intro c c' h
  revert h
  cases c <;> cases c' <;> decide

theorem faultCode_ne_zero (c : Cause) : faultCode c ≠ 0#4 := by
  cases c <;> decide

/-! ### What `KEYEXP` answers -/

theorem exec_keyexp_of_fault {s : State} {c : Cause} (h : keyLengthFault s = some c) :
    exec .keyexp s = .next (s.raiseFault c) := by
  simp [exec, execKeyexp, h]

theorem exec_keyexp_of_keyLengthOk {s : State} (h : s.keyLengthOk) : exec .keyexp s = .next (keyexpResult s) := by
  simp [exec, execKeyexp, (keyLengthFault_eq_none_iff s).mpr h, keyexpResult]

/-- A fault code in `ERR` after `KEYEXP` is that of the fault the key length raises (41_keysched.md R121). -/
theorem keyLengthFault_of_err {s t : State} {c : Cause} (h : exec .keyexp s = .next t) (herr : t.err = faultCode c) :
    keyLengthFault s = some c := by
  cases hfault : keyLengthFault s with
  | some c' =>
    obtain rfl : s.raiseFault c' = t := Host.Outcome.next.inj ((exec_keyexp_of_fault hfault).symm.trans h)
    exact congrArg some (faultCode_injective herr)
  | none =>
    have hok := (keyLengthFault_eq_none_iff s).mp hfault
    obtain rfl : keyexpResult s = t := Host.Outcome.next.inj ((exec_keyexp_of_keyLengthOk hok).symm.trans h)
    exact absurd herr.symm (faultCode_ne_zero c)

/-! ### The arrays `S` and `L`, at every index -/

/-- A read of `S` after a write inside the array, at any index: beyond the array there is nothing to change. -/
theorem subkeyAt_setSubkey_of_lt (S : Subkeys) {i : Nat} (k : Nat) (v : Word) (h : i < 44) :
    subkeyAt (setSubkey S i v) k = if k = i then v else subkeyAt S k := by
  by_cases hk : k < 44
  · exact subkeyAt_setSubkey S i k v hk
  · have hne : k ≠ i := by omega
    simp [subkeyAt, Vector.getD, hk, hne]

theorem getElem?_eq_some_keyWordAt {L : List Word} {j : Nat} (h : j < L.length) : L[j]? = some (keyWordAt L j) := by
  simp [keyWordAt, List.getD, h]

theorem packKey_getElem?_of_le (s : State) {lw j : Nat} (h : lw ≤ j) : (packKey s lw)[j]? = s.keyWords[j]? := by
  rw [packKey, List.getElem?_append_right (by simpa using h)]
  simp [Nat.add_sub_cancel' h]

/-! ### One mixing iteration (41_keysched.md R124) -/

theorem mixIteration_ka (lw : Nat) (m : Mix) :
    (mixIteration lw m).ka = (subkeyAt m.subkeys m.i + m.ka + m.kb).rotateLeft 3 := rfl

theorem mixIteration_kb (lw : Nat) (m : Mix) :
    (mixIteration lw m).kb = (keyWordAt m.keyWords m.j + (mixIteration lw m).ka + m.kb).rotateLeft
      (((mixIteration lw m).ka + m.kb).toNat % 32) := rfl

theorem mixIteration_subkeys (lw : Nat) (m : Mix) :
    (mixIteration lw m).subkeys = setSubkey m.subkeys m.i (mixIteration lw m).ka := rfl

theorem mixIteration_keyWords (lw : Nat) (m : Mix) :
    (mixIteration lw m).keyWords = setKeyWord m.keyWords m.j (mixIteration lw m).kb := rfl

/-! ### The mixing of `KEYEXP`, iteration by iteration -/

/-- `S`, `L`, `KA`, `KB` and the indices after `k` mixing iterations of a key of `lw` words. -/
def mixAfter (s : State) (lw k : Nat) : Mix :=
  mixIterations lw k (mixStart initialSubkeys (packKey s lw))

/-- For an accepted key `KEYEXP` leaves what the last of the `v` iterations gives (41_keysched.md R124, R125). -/
theorem exec_keyexp_eq_mixAfter {s : State} {lw v : Nat} (h : s.keyLengthOk) (hlw : lw = s.klen.toNat / 4)
    (hv : v = 3 * max lw 44) :
    exec .keyexp s = .next { s with
      lw := BitVec.ofNat 32 lw, keyWords := (mixAfter s lw v).keyWords, subkeys := (mixAfter s lw v).subkeys,
      ka := (mixAfter s lw v).ka, kb := (mixAfter s lw v).kb, svalid := true, err := 0#4, draws := s.draws + 1 } := by
  subst hlw hv
  exact exec_keyexp_of_keyLengthOk h

section
variable (s : State) (lw k : Nat)

theorem mixAfter_succ : mixAfter s lw (k + 1) = mixIteration lw (mixAfter s lw k) := mixIterations_succ lw k _

@[simp] theorem mixAfter_i : (mixAfter s lw k).i = k % 44 := (mixIterations_indices lw k _ _).1

@[simp] theorem mixAfter_j : (mixAfter s lw k).j = k % lw := (mixIterations_indices lw k _ _).2

@[simp] theorem mixAfter_keyWords_length : (mixAfter s lw k).keyWords.length = max lw s.keyWords.length :=
  (mixIterations_keyWords_length lw k _).trans (packKey_length s lw)

theorem mixAfter_succ_ka :
    (mixAfter s lw (k + 1)).ka =
      (subkeyAt (mixAfter s lw k).subkeys (k % 44) + (mixAfter s lw k).ka + (mixAfter s lw k).kb).rotateLeft 3 := by
  rw [mixAfter_succ, mixIteration_ka, mixAfter_i]

theorem mixAfter_succ_kb :
    (mixAfter s lw (k + 1)).kb =
      (keyWordAt (mixAfter s lw k).keyWords (k % lw) + (mixAfter s lw (k + 1)).ka
        + (mixAfter s lw k).kb).rotateLeft (((mixAfter s lw (k + 1)).ka + (mixAfter s lw k).kb).toNat % 32) := by
  rw [mixAfter_succ, mixIteration_kb, mixAfter_j]

theorem mixAfter_succ_subkeys (i : Nat) :
    subkeyAt (mixAfter s lw (k + 1)).subkeys i =
      if i = k % 44 then (mixAfter s lw (k + 1)).ka else subkeyAt (mixAfter s lw k).subkeys i := by
  rw [mixAfter_succ, mixIteration_subkeys, mixAfter_i]
  exact subkeyAt_setSubkey_of_lt _ i _ (Nat.mod_lt k (by decide))

variable {lw} in
theorem mixAfter_succ_keyWords (hlw : 0 < lw) (j : Nat) :
    keyWordAt (mixAfter s lw (k + 1)).keyWords j =
      if j = k % lw then (mixAfter s lw (k + 1)).kb else keyWordAt (mixAfter s lw k).keyWords j := by
  have hin : k % lw < (mixAfter s lw k).keyWords.length := by
    rw [mixAfter_keyWords_length]
    exact lt_max_of_lt_left (Nat.mod_lt k hlw)
  rw [mixAfter_succ, mixIteration_keyWords, mixAfter_j]
  exact keyWordAt_setKeyWord _ _ j _ hin

variable {lw} in
/-- Mixing never reaches the elements of `L` from `LW` up (41_keysched.md R122). -/
theorem mixAfter_keyWords_getElem?_of_le (hlw : 0 < lw) {j : Nat} (hj : lw ≤ j) :
    (mixAfter s lw k).keyWords[j]? = s.keyWords[j]? := by
  induction k with
  | zero => exact packKey_getElem?_of_le s hj
  | succ k ih =>
    have hne : k % lw ≠ j := ((Nat.mod_lt k hlw).trans_le hj).ne
    rw [mixAfter_succ, mixIteration_keyWords, mixAfter_j, setKeyWord, List.getElem?_set_ne hne, ih]

variable {k}

/-- `KA` is the subkey written last (41_keysched.md R125). -/
theorem mixAfter_ka_eq_subkeyAt (hk : 0 < k) :
    (mixAfter s lw k).ka = subkeyAt (mixAfter s lw k).subkeys ((k - 1) % 44) := by
  obtain ⟨n, rfl⟩ := Nat.exists_eq_add_one.mpr hk
  rw [mixAfter_succ_subkeys, Nat.add_sub_cancel, if_pos rfl]

variable {lw} in
/-- `KB` is the key word written last (41_keysched.md R125). -/
theorem mixAfter_kb_eq_keyWordAt (hlw : 0 < lw) (hk : 0 < k) :
    (mixAfter s lw k).kb = keyWordAt (mixAfter s lw k).keyWords ((k - 1) % lw) := by
  obtain ⟨n, rfl⟩ := Nat.exists_eq_add_one.mpr hk
  rw [mixAfter_succ_keyWords s n hlw, Nat.add_sub_cancel, if_pos rfl]

end

/-- Each element of the table is `Q32` above the one before it (41_keysched.md R123). -/
theorem subkeyAt_initialSubkeys_succ {i : Nat} (h : i + 1 < 44) :
    subkeyAt initialSubkeys (i + 1) = subkeyAt initialSubkeys i + 0x9E3779B9#32 := by
  rw [subkeyAt_initialSubkeys _ h, subkeyAt_initialSubkeys _ (Nat.lt_of_succ_lt h)]
  rfl

end Sys2Proof.Machine

namespace Sys2Proof.Proofs

open Sys2Proof.Machine

/-- Settles O18: the key length decides which fault is raised, and a fault code in `ERR` tells which it was
(41_keysched.md R128, 60_exceptions.md R161, R162). -/
theorem keyexpRejectsBadLengths : Obligations.KeyexpRejectsBadLengths := by
  intro s
  refine ⟨fun hbad => ?_, fun m hm hzero hmod hlt => ?_, fun hzero hmod t ht herr => ?_, fun hcap t ht herr => ?_⟩
  · exact exec_keyexp_of_fault ((keyLengthFault_eq_invalidKeyLength_iff s).mpr hbad)
  · exact exec_keyexp_of_fault ((keyLengthFault_eq_resourceError_iff s).mpr ⟨hzero, hmod, m, hm, hlt⟩)
  · have hfault := keyLengthFault_of_err (c := .invalidKeyLength) ht herr
    exact ((keyLengthFault_eq_invalidKeyLength_iff s).mp hfault).elim hzero (absurd hmod)
  · have hfault := keyLengthFault_of_err (c := .resourceError) ht herr
    obtain ⟨-, -, m, hm, -⟩ := (keyLengthFault_eq_resourceError_iff s).mp hfault
    cases hcap.symm.trans hm

/-- Settles O19: the sequences are the reads of `S`, `L`, `KA` and `KB` from the state after `k` mixing iterations
(41_keysched.md R122, R124, R125). -/
theorem keyexpFollowsTheRecurrences : Obligations.KeyexpFollowsTheRecurrences := by
  refine ⟨rfl, fun s hzero hmod hcap => ?_⟩
  have hok : s.keyLengthOk := ⟨hzero, hmod, (fits_iff s.bmax s.klen.toNat).mpr hcap⟩
  obtain ⟨lw, hlw⟩ : ∃ lw, lw = s.klen.toNat / 4 := ⟨_, rfl⟩
  obtain ⟨v, hv⟩ : ∃ v, v = 3 * max lw 44 := ⟨_, rfl⟩
  obtain ⟨hpos, hword, -⟩ : 0 < lw ∧ lw < 2 ^ 32 ∧ 4 * lw = s.klen.toNat := hlw ▸ keyWordCount_bounds hok
  have hcount : 132 ≤ v := by omega
  have hvpos : 0 < v := by omega
  refine ⟨_, exec_keyexp_eq_mixAfter hok hlw hv,
    fun k => subkeyAt (mixAfter s lw k).subkeys, fun k => keyWordAt (mixAfter s lw k).keyWords,
    fun k => (mixAfter s lw k).ka, fun k => (mixAfter s lw k).kb, lw, v, hlw, hv, hcount,
    fun j hj => keyWordAt_packKey s lw j hj, subkeyAt_initialSubkeys 0 (by decide),
    fun i hi => subkeyAt_initialSubkeys_succ (Nat.succ_lt_succ hi), rfl, rfl, fun k _ => ?iteration, ?subkeys,
    fun j hj => ?keyWords, ?keyWordsAbove, ?count, rfl, rfl,
    mixAfter_ka_eq_subkeyAt s lw hvpos, mixAfter_kb_eq_keyWordAt s hpos hvpos, rfl⟩
  case iteration =>
    exact ⟨mixAfter_succ_ka s lw k, mixAfter_succ_kb s lw k, mixAfter_succ_subkeys s lw k,
      mixAfter_succ_keyWords s k hpos⟩
  case subkeys => exact fun i hi => (subkeyAt_of_lt _ i hi).symm
  case keyWords =>
    have hlen : lw ≤ (mixAfter s lw v).keyWords.length := by simp
    exact getElem?_eq_some_keyWordAt (hj.trans_le hlen)
  case keyWordsAbove => exact fun j hj => mixAfter_keyWords_getElem?_of_le s v hpos hj
  case count => exact Nat.mod_eq_of_lt hword

end Sys2Proof.Proofs
end

section
/-! PROOFS. The block family: the rounds as recurrences, the two transforms as inverses, and the command script. -/

namespace Sys2Proof.Machine

/-! ### The transforms are inverse at every stage -/

@[simp] theorem add32_sub32 (x y : Word) : add32 (sub32 x y) y = x := BitVec.sub_add_cancel x y

section
variable (S : Subkeys) (x : Block)

@[simp] theorem undoPreWhiten_preWhiten : undoPreWhiten S (preWhiten S x) = x := by
  simp [undoPreWhiten, preWhiten]

@[simp] theorem preWhiten_undoPreWhiten : preWhiten S (undoPreWhiten S x) = x := by
  simp [undoPreWhiten, preWhiten]

@[simp] theorem undoPostWhiten_postWhiten : undoPostWhiten S (postWhiten S x) = x := by
  simp [undoPostWhiten, postWhiten]

@[simp] theorem postWhiten_undoPostWhiten : postWhiten S (undoPostWhiten S x) = x := by
  simp [undoPostWhiten, postWhiten]

@[simp] theorem inverseRound_forwardRound (i : Nat) : inverseRound S i (forwardRound S i x) = x := by
  simp [inverseRound, forwardRound]

@[simp] theorem forwardRound_inverseRound (i : Nat) : forwardRound S i (inverseRound S i x) = x := by
  simp [inverseRound, forwardRound]

@[simp] theorem inverseRounds_forwardRounds (n : Nat) : inverseRounds S n (forwardRounds S n x) = x := by
  induction n with
  | zero => rfl
  | succ n ih => rw [forwardRounds, inverseRounds, inverseRound_forwardRound, ih]

@[simp] theorem forwardRounds_inverseRounds (n : Nat) : forwardRounds S n (inverseRounds S n x) = x := by
  induction n generalizing x with
  | zero => rfl
  | succ n ih => rw [inverseRounds, forwardRounds, ih, forwardRound_inverseRound]

theorem decryptBlock_encryptBlock : decryptBlock S (encryptBlock S x) = x := by
  simp [decryptBlock, encryptBlock]

theorem encryptBlock_decryptBlock : encryptBlock S (decryptBlock S x) = x := by
  simp [decryptBlock, encryptBlock]

end

/-! ### What a transform command answers -/

theorem exec_encrypt (s : State) : exec .encrypt s = .next (s.runTransform encryptBlock) := rfl

theorem exec_decrypt (s : State) : exec .decrypt s = .next (s.runTransform decryptBlock) := rfl

/-- Both transform commands run some function of `S` and the block (42_block.md R140). -/
theorem exists_exec_eq_runTransform {c : Instr} (hc : c = .encrypt ∨ c = .decrypt) :
    ∃ f, ∀ s, exec c s = .next (s.runTransform f) := by
  obtain rfl | rfl := hc
  · exact ⟨encryptBlock, exec_encrypt⟩
  · exact ⟨decryptBlock, exec_decrypt⟩

/-- Without subkeys a transform writes the code of `SubkeysNotReady` (42_block.md R140, 60_exceptions.md R168). -/
theorem exec_transform_of_not_svalid {c : Instr} {s : State} (hc : c = .encrypt ∨ c = .decrypt)
    (h : s.svalid = false) : exec c s = .next { s with err := 3#4 } := by
  obtain ⟨f, hf⟩ := exists_exec_eq_runTransform hc
  rw [hf, runTransform_of_not_svalid f h]
  rfl

/-- With subkeys a transform runs to its end (42_block.md R140, R144). -/
theorem exec_transform_of_svalid {c : Instr} {f : Subkeys → Block → Block}
    (hf : ∀ s, exec c s = .next (s.runTransform f)) {s : State} (h : s.svalid = true) :
    exec c s = .next (s.setBlock (f s.subkeys s.block)).completeTransform := by
  rw [hf, runTransform_of_svalid f h]

/-! ### The rounds as recurrences -/

/-- The quadratic function in the words' own arithmetic (40_primitives.md R107). -/
theorem quad5_eq (x : Word) : quad5 x = (x * (2#32 * x + 1#32)).rotateLeft 5 := by
  rw [BitVec.two_mul]
  rfl

section
variable (s : State) (i : Nat)

/-- The block after the pre-whitening and `i` rounds of `ENCRYPT` (42_block.md R141). -/
def encryptAfter : Block := forwardRounds s.subkeys i (preWhiten s.subkeys s.block)

theorem encryptAfter_succ : encryptAfter s (i + 1) = forwardRound s.subkeys (i + 1) (encryptAfter s i) := rfl

/-- The block that `DECRYPT` takes into its inverse rounds `i` to 1: what `i` forward rounds make of the block that they
end in (42_block.md R142). -/
def decryptBefore : Block :=
  forwardRounds s.subkeys i (inverseRounds s.subkeys 20 (undoPostWhiten s.subkeys s.block))

theorem decryptBefore_twenty : decryptBefore s 20 = undoPostWhiten s.subkeys s.block :=
  forwardRounds_inverseRounds s.subkeys _ 20

theorem decryptBefore_eq_inverseRound :
    decryptBefore s i = inverseRound s.subkeys (i + 1) (decryptBefore s (i + 1)) :=
  (inverseRound_forwardRound s.subkeys (decryptBefore s i) (i + 1)).symm

end

/-! ### The command script -/

theorem commandWrite_encode (c : Instr) (s : State) : commandWrite (encode c) s = exec c s := by
  cases c with
  | _ => rfl

/-- The step of a script line that names a command runs the command (30_encoding.md R87). -/
theorem step_of_command {s : State} {c : Instr} {rest : List HostEvent}
    (hp : s.pending = (ScriptLine.command c).access s.base :: rest) :
    step s = exec c { s with pending := rest } :=
  (step_of_write_cmd hp).trans (commandWrite_encode c _)

theorem run_succ_of_step {M : Host.Core} {s t : M.State} (h : M.step s = .next t) (n : Nat) :
    M.run (n + 1) s = M.run n t := by
  simp [Host.Core.run, h]

/-- The state that `KEYEXP` with an accepted key and then a transform by `f` leave, with `rest` still to come. -/
def invokeResult (f : Subkeys → Block → Block) (rest : List HostEvent) (s : State) : State :=
  State.completeTransform
    (State.setBlock (keyexpResult { s with pending := rest }) (f (keyexpResult s).subkeys s.block))

/-- A transform leaves the key length as it was, so `KEYEXP` accepts it again (42_block.md R146). -/
theorem invokeResult_keyLengthOk {f : Subkeys → Block → Block} {rest : List HostEvent} {s : State}
    (hok : s.keyLengthOk) : (invokeResult f rest s).keyLengthOk := hok

/-- The script `KEYEXP` and a transform takes two steps (30_encoding.md R88). -/
theorem run_invoke {c : Instr} {f : Subkeys → Block → Block} (hf : ∀ s, exec c s = .next (s.runTransform f))
    {s : State} (rest : List HostEvent) (hok : s.keyLengthOk)
    (hp : s.pending = scriptAccesses s.base [.command .keyexp, .command c] ++ rest) (n : Nat) :
    core.run (n + 2) s = core.run n (invokeResult f rest s) := by
  have hkeyexp := (step_of_command hp).trans (exec_keyexp_of_keyLengthOk hok)
  have htransform : step (keyexpResult { s with pending := (ScriptLine.command c).access s.base :: rest }) =
      .next (invokeResult f rest s) :=
    (step_of_command (rest := rest) rfl).trans (exec_transform_of_svalid hf rfl)
  exact (run_succ_of_step hkeyexp (n + 1)).trans (run_succ_of_step htransform n)

/-! ### Scheduling the same key again -/

theorem keyByte_of_read? {s : State} {n : Nat} {v : Byte} (h : Memory.read? s.key n = some v) : s.keyByte n = v := by
  simp [State.keyByte, h]

section
variable {s t : State} (hw : s.keyWritten) (hkey : t.key = s.key)
include hw hkey

/-- A written key byte does not depend on the draw it is read under (entry 3). -/
theorem keyByte_eq_of_keyWritten {n : Nat} (hn : n < s.klen.toNat) : t.keyByte n = s.keyByte n := by
  obtain ⟨v, hv⟩ := hw n hn
  rw [keyByte_of_read? hv, keyByte_of_read? (hkey ▸ hv)]

theorem packedWord_eq_of_keyWritten {k : Nat} (hk : k < keyWordCount s.klen) : t.packedWord k = s.packedWord k := by
  have hin : 4 * k + 3 < s.klen.toNat := by unfold keyWordCount at hk; omega
  unfold State.packedWord
  congr 1 <;> exact keyByte_eq_of_keyWritten hw hkey (by omega)

/-- Packing a written key overwrites all of `L` below `LW`, whatever it held (41_keysched.md R122). -/
theorem packKey_eq_of_keyWritten
    (habove : ∀ j, keyWordCount s.klen ≤ j → t.keyWords[j]? = s.keyWords[j]?) :
    packKey t (keyWordCount s.klen) = packKey s (keyWordCount s.klen) := by
  unfold packKey
  congr 1
  · exact List.map_congr_left fun k hk => packedWord_eq_of_keyWritten hw hkey (List.mem_range.mp hk)
  · refine List.ext_getElem? fun j => ?_
    rw [List.getElem?_drop, List.getElem?_drop]
    exact habove _ (Nat.le_add_right _ j)

end

theorem keyexpResult_keyWords_getElem?_of_le {s : State} (hok : s.keyLengthOk) {j : Nat}
    (hj : keyWordCount s.klen ≤ j) : (keyexpResult s).keyWords[j]? = s.keyWords[j]? :=
  mixAfter_keyWords_getElem?_of_le s _ (keyWordCount_bounds hok).1 hj

/-- A second `KEYEXP` of a written key gives the subkeys of the first, whatever transform ran between them
(41_keysched.md R126). -/
theorem keyexpResult_invokeResult_subkeys (f : Subkeys → Block → Block) (rest : List HostEvent) {s : State}
    (hok : s.keyLengthOk) (hw : s.keyWritten) :
    (keyexpResult (invokeResult f rest s)).subkeys = (keyexpResult s).subkeys := by
  have hpack : packKey (invokeResult f rest s) (keyWordCount s.klen) = packKey s (keyWordCount s.klen) :=
    packKey_eq_of_keyWritten hw rfl fun _ hj => keyexpResult_keyWords_getElem?_of_le hok hj
  exact congrArg (fun L => (mixIterations _ _ (mixStart initialSubkeys L)).subkeys) hpack

theorem invokeResult_decrypt_encrypt_block (rest rest' : List HostEvent) {s : State} (hok : s.keyLengthOk)
    (hw : s.keyWritten) :
    (invokeResult decryptBlock rest' (invokeResult encryptBlock rest s)).block = s.block :=
  calc (invokeResult decryptBlock rest' (invokeResult encryptBlock rest s)).block
    _ = decryptBlock (keyexpResult (invokeResult encryptBlock rest s)).subkeys
          (encryptBlock (keyexpResult s).subkeys s.block) := rfl
    _ = s.block := by rw [keyexpResult_invokeResult_subkeys _ _ hok hw, decryptBlock_encryptBlock]

end Sys2Proof.Machine

namespace Sys2Proof.Proofs

open Sys2Proof.Machine

/-- Settles O22: the registers after round `i` are those of `encryptAfter` (42_block.md R141). -/
theorem encryptFollowsTheRounds : Obligations.EncryptFollowsTheRounds := by
  simp only [Obligations.EncryptFollowsTheRounds, ← quad5_eq, ← subkeyAt_of_lt]
  refine ⟨rfl, fun s h => exec_transform_of_not_svalid (.inl rfl) h, fun s h => ?_⟩
  refine ⟨fun i => (encryptAfter s i).a, fun i => (encryptAfter s i).b, fun i => (encryptAfter s i).c,
    fun i => (encryptAfter s i).d, rfl, rfl, rfl, rfl, fun i _ => ?_, exec_transform_of_svalid exec_encrypt h⟩
  simp only [encryptAfter_succ]
  exact ⟨rfl, rfl, rfl, rfl⟩

/-- Settles O23: the registers before the inverse rounds `i` to 1 are those of `decryptBefore` (42_block.md R142). -/
theorem decryptFollowsTheRounds : Obligations.DecryptFollowsTheRounds := by
  simp only [Obligations.DecryptFollowsTheRounds, ← quad5_eq, ← subkeyAt_of_lt]
  refine ⟨rfl, fun s h => exec_transform_of_not_svalid (.inr rfl) h, fun s h => ?_⟩
  have htop := decryptBefore_twenty s
  refine ⟨fun i => (decryptBefore s i).a, fun i => (decryptBefore s i).b, fun i => (decryptBefore s i).c,
    fun i => (decryptBefore s i).d, congrArg Block.a htop, congrArg Block.b htop, congrArg Block.c htop,
    congrArg Block.d htop, fun i _ => ?_, exec_transform_of_svalid exec_decrypt h⟩
  simp only [decryptBefore_eq_inverseRound s i]
  exact ⟨rfl, rfl, rfl, rfl⟩

/-- Settles O24: each stage of one transform undoes a stage of the other, and the second `KEYEXP` gives the subkeys of
the first (42_block.md R143, 41_keysched.md R126). -/
theorem transformsAreInverse : Obligations.TransformsAreInverse := by
  refine ⟨decryptBlock_encryptBlock, encryptBlock_decryptBlock, fun s hok hw hp => ?_⟩
  have hblock := invokeResult_decrypt_encrypt_block (scriptAccesses s.base invokeDecrypt) [] hok hw
  refine ⟨_, ?_, congrArg Block.a hblock, congrArg Block.b hblock, congrArg Block.c hblock, congrArg Block.d hblock⟩
  calc core.run 4 s
    _ = core.run 2 (invokeResult encryptBlock _ s) := run_invoke exec_encrypt _ hok hp 2
    _ = .next _ := run_invoke exec_decrypt [] (invokeResult_keyLengthOk hok) rfl 0

/-- Settles O25: both commands leave one function of `S` and the block in the registers (42_block.md R146). -/
theorem transformsDependOnBlockAndSubkeys : Obligations.TransformsDependOnBlockAndSubkeys := by
  intro c hc s₁ s₂ h₁ h₂ hblock hsubkeys
  obtain ⟨f, hf⟩ := exists_exec_eq_runTransform hc
  have hsame : f s₁.subkeys s₁.block = f s₂.subkeys s₂.block := by rw [hblock, hsubkeys]
  exact ⟨_, _, exec_transform_of_svalid hf h₁, exec_transform_of_svalid hf h₂, hsame, rfl⟩

/-- Settles O21: the test of `SVALID` comes first, and a transform that passes it completes (42_block.md R140). -/
theorem transformsTestSvalid : Obligations.TransformsTestSvalid := by
  intro s
  exact ⟨fun h => ⟨exec_transform_of_not_svalid (.inl rfl) h, exec_transform_of_not_svalid (.inr rfl) h⟩,
    fun h => ⟨⟨_, exec_transform_of_svalid exec_encrypt h, rfl⟩, _, exec_transform_of_svalid exec_decrypt h, rfl⟩⟩

end Sys2Proof.Proofs
end

section
/-! PROOFS. The exceptions family: the fault that a `CMD` write raises, and all that it changes. -/

namespace Sys2Proof.Machine

/-! ### The fault table (60_exceptions.md R160) -/

/-- The fault a command raises in a state, or none (60_exceptions.md R160, R167). -/
def execFault (i : Instr) (s : State) : Option Cause :=
  match i with
  | .keyexp => keyLengthFault s
  | .encrypt | .decrypt => if s.svalid then none else some .subkeysNotReady
  | .rotl | .rotr => none

/-- The fault a `CMD` write of a word raises in a state, or none (60_exceptions.md R160, R164). -/
def commandFault (w : Word) (s : State) : Option Cause :=
  match decode w with
  | .ok i => execFault i s
  | .error _ => some .illegalCommand

theorem commandFault_of_decode {w : Word} {i : Instr} (s : State) (h : decode w = .ok i) :
    commandFault w s = execFault i s := by
  simp [commandFault, h]

theorem commandFault_of_decode_error {w : Word} {e : DecodeError} (s : State) (h : decode w = .error e) :
    commandFault w s = some .illegalCommand := by
  simp [commandFault, h]

theorem commandFault_of_ne_encode {w : Word} (s : State) (h : ∀ i, w ≠ encode i) :
    commandFault w s = some .illegalCommand := by
  cases hdecode : decode w with
  | ok i => exact absurd (eq_encode_of_decode hdecode) (h i)
  | error e => exact commandFault_of_decode_error s hdecode

theorem encode_toNat_bounds (i : Instr) : 0 < (encode i).toNat ∧ (encode i).toNat ≤ 5 := by
  cases i with
  | _ => decide

theorem faultCode_execFault_of_transform {i : Instr} (s : State) (hi : i = .encrypt ∨ i = .decrypt) :
    (execFault i s).elim 0#4 faultCode = if s.svalid then 0#4 else 3#4 := by
  have hfault : execFault i s = if s.svalid then none else some .subkeysNotReady := by
    rcases hi with rfl | rfl <;> rfl
  rw [hfault]
  cases s.svalid <;> rfl

/-! ### The table is what the commands do -/

/-- What the table says of the state `t` that a command leaves from `s`: a command that ran to its end leaves `ERR` 0,
and a fault is the whole effect of the command that raised it (60_exceptions.md R160, R168). -/
def LeavesOutcome (fault : Option Cause) (s t : State) : Prop :=
  match fault with
  | none => t.err = 0#4
  | some c => t = s.raiseFault c

theorem runTransform_leavesOutcome (f : Subkeys → Block → Block) (s : State) :
    LeavesOutcome (if s.svalid then none else some .subkeysNotReady) s (s.runTransform f) := by
  cases hs : s.svalid with
  | true => rw [runTransform_of_svalid f hs]; rfl
  | false => exact runTransform_of_not_svalid f hs

theorem exec_leavesOutcome {i : Instr} {s t : State} (h : exec i s = .next t) :
    LeavesOutcome (execFault i s) s t := by
  cases i with
  | keyexp =>
    rcases execKeyexp_cases s with ⟨c, -, hfault, hexec⟩ | ⟨hok, hexec⟩
    · obtain rfl : s.raiseFault c = t := Host.Outcome.next.inj (hexec.symm.trans h)
      rw [execFault, hfault]; rfl
    · obtain rfl : keyexpResult s = t := Host.Outcome.next.inj (hexec.symm.trans h)
      rw [execFault, (keyLengthFault_eq_none_iff s).mpr hok]; rfl
  | encrypt => cases h; exact runTransform_leavesOutcome encryptBlock s
  | decrypt => cases h; exact runTransform_leavesOutcome decryptBlock s
  | rotl | rotr => cases h; rfl

theorem commandWrite_leavesOutcome {w : Word} {s t : State} (h : commandWrite w s = .next t) :
    LeavesOutcome (commandFault w s) s t := by
  rcases commandWrite_cases w s with ⟨i, hdecode, hexec⟩ | ⟨⟨e, hdecode⟩, hfault⟩
  · rw [commandFault_of_decode s hdecode]
    exact exec_leavesOutcome (hexec.symm.trans h)
  · rw [commandFault_of_decode_error s hdecode]
    exact Host.Outcome.next.inj (h.symm.trans hfault)

theorem LeavesOutcome.err_eq {fault : Option Cause} {s t : State} (h : LeavesOutcome fault s t) :
    t.err = fault.elim 0#4 faultCode := by
  cases fault with
  | none => exact h
  | some c => exact congrArg State.err h

theorem LeavesOutcome.exists_of_err_ne_zero {fault : Option Cause} {s t : State} (h : LeavesOutcome fault s t)
    (herr : t.err ≠ 0#4) : ∃ c, fault = some c ∧ t = s.raiseFault c := by
  cases fault with
  | none => exact absurd h herr
  | some c => exact ⟨c, rfl, h⟩

/-- A taken write of `CMD` leaves the outcome that the table gives for its word; the fault it raises does not depend on
what the host has pending after it. -/
theorem step_cmd_leavesOutcome {s t : State} {w : Word} {rest : List HostEvent}
    (hp : s.pending = .write (s.base + 0x000) 32 w :: rest) (ht : step s = .next t) :
    LeavesOutcome (commandFault w s) { s with pending := rest } t :=
  commandWrite_leavesOutcome (s := { s with pending := rest }) ((step_of_write_cmd hp).symm.trans ht)

/-! ### `SubkeysNotReady` is raised without subkeys only (60_exceptions.md R163) -/

theorem keyLengthFault_ne_subkeysNotReady (s : State) : keyLengthFault s ≠ some .subkeysNotReady := by
  rcases execKeyexp_cases s with ⟨c, hc, hfault, -⟩ | ⟨hok, -⟩
  · rw [hfault]
    rcases hc with rfl | rfl <;> decide
  · rw [(keyLengthFault_eq_none_iff s).mpr hok]
    nofun

theorem not_svalid_of_execFault {i : Instr} {s : State} (h : execFault i s = some .subkeysNotReady) :
    s.svalid = false := by
  cases i with
  | keyexp => exact absurd h (keyLengthFault_ne_subkeysNotReady s)
  | encrypt | decrypt => simpa [execFault] using h
  | rotl | rotr => cases h

theorem not_svalid_of_commandFault {w : Word} {s : State} (h : commandFault w s = some .subkeysNotReady) :
    s.svalid = false := by
  cases hdecode : decode w with
  | ok i => exact not_svalid_of_execFault ((commandFault_of_decode s hdecode).symm.trans h)
  | error e => cases (commandFault_of_decode_error s hdecode).symm.trans h

end Sys2Proof.Machine

namespace Sys2Proof.Proofs

open Sys2Proof.Machine

/-- Settles O35: a code tells which fault was raised, and `raiseFault` is all that the write did (60_exceptions.md
R168). -/
theorem faultsWriteStatusOnly : Obligations.FaultsWriteStatusOnly := by
  intro s t w rest hp ht herr
  obtain ⟨c, hfault, rfl⟩ := (step_cmd_leavesOutcome hp ht).exists_of_err_ne_zero herr
  refine ⟨rfl, fun hcode => ?_, fun hcode => ?_, fun hcode => ?_⟩
  · rcases hcode with hcode | hcode
    · obtain rfl : c = .invalidKeyLength := faultCode_injective hcode
      rfl
    · obtain rfl : c = .resourceError := faultCode_injective hcode
      rfl
  · obtain rfl : c = .subkeysNotReady := faultCode_injective hcode
    have hs : s.svalid = false := not_svalid_of_commandFault hfault
    exact ⟨hs, hs⟩
  · obtain rfl : c = .illegalCommand := faultCode_injective hcode
    rfl

/-- Settles O34: `ERR` is the code of the fault that the table gives for the word and the state (60_exceptions.md R160,
R167). -/
theorem errIsTheOutcomeOfTheCommand : Obligations.ErrIsTheOutcomeOfTheCommand := by
  intro s t w rest hp ht
  have hcode : t.err = (commandFault w s).elim 0#4 faultCode := (step_cmd_leavesOutcome hp ht).err_eq
  refine ⟨?keyexp, ?transform, ?rotate, fun hw => ?illegal,
    fun herr => (faultsWriteStatusOnly s t w rest hp ht herr).1⟩
  case keyexp =>
    rintro rfl
    replace hcode : t.err = (keyLengthFault s).elim 0#4 faultCode := hcode
    refine ⟨fun hbad => ?_, fun hzero hmod hlong => ?_, fun hzero hmod hfits => ?_⟩
    · rw [hcode, (keyLengthFault_eq_invalidKeyLength_iff s).mpr hbad]; rfl
    · rw [hcode, (keyLengthFault_eq_resourceError_iff s).mpr ⟨hzero, hmod, hlong⟩]; rfl
    · rw [hcode, (keyLengthFault_eq_none_iff s).mpr ⟨hzero, hmod, (fits_iff _ _).mpr hfits⟩]; rfl
  case transform =>
    rintro (rfl | rfl)
    · exact hcode.trans (faultCode_execFault_of_transform s (.inl rfl))
    · exact hcode.trans (faultCode_execFault_of_transform s (.inr rfl))
  case rotate => rintro (rfl | rfl) <;> exact hcode
  case illegal =>
    have hne : ∀ i, w ≠ encode i := by
      rintro i rfl
      obtain ⟨hpos, hle⟩ := encode_toNat_bounds i
      rcases hw with hzero | hlarge
      · simp [hzero] at hpos
      · omega
    rw [hcode, commandFault_of_ne_encode s hne]
    rfl

end Sys2Proof.Proofs
end

section
/-! PROOFS. The hazards family: the subkeys serve one transform. -/

namespace Sys2Proof.Proofs

open Sys2Proof.Machine

/-- Settles O26: the first transform completes and with that clears `SVALID`, so the second one fails its test of
`SVALID` (70_reset_and_hazards.md R193). -/
theorem subkeysAreSingleUse : Obligations.SubkeysAreSingleUse := by
  intro c c' hc hc' s hs
  obtain ⟨f, hf⟩ := exists_exec_eq_runTransform hc
  have hused : (s.setBlock (f s.subkeys s.block)).completeTransform.svalid = false := completeTransform_svalid _
  exact ⟨_, exec_transform_of_svalid hf hs, hused, rfl, exec_transform_of_not_svalid hc' hused⟩

end Sys2Proof.Proofs
end

section
/-! PROOFS. The words that decode, the window's map read both ways, and the closed forms of two word functions. -/

namespace Sys2Proof.Machine

/-! ### Decoding -/

theorem decode_encode (i : Instr) : decode (encode i) = .ok i := by
  cases i with
  | _ => rfl

/-- A word decodes to a command exactly when it is the command's one word (30_encoding.md R81, R83). -/
theorem decode_eq_ok_iff (w : Word) (i : Instr) : decode w = .ok i ↔ w = encode i := by
  refine ⟨eq_encode_of_decode, ?_⟩
  rintro rfl
  exact decode_encode i

/-! ### The window's map -/

theorem indexes_iff (cap : Capacity) (n : Nat) : Capacity.indexes cap n = true ↔ ∀ m, cap = .bytes m → n < m := by
  cases cap with
  | unbounded => simp [Capacity.indexes]
  | bytes m => simp [Capacity.indexes]

/-- The map finds a register only at the register's offset, and only when the block has it (20_memory.md R57). -/
theorem offset_of_regAtOffset {cap : Capacity} {off : Nat} {r : HostReg} (h : regAtOffset cap off = some r) :
    off = r.offset ∧ r.present cap = true := by
  unfold regAtOffset at h
  split_ifs at h with hcmd hstatus hklen ha hb hc hd hsubkey hkey <;> cases h
  · exact ⟨hcmd, rfl⟩
  · exact ⟨hstatus, rfl⟩
  · exact ⟨hklen, rfl⟩
  · exact ⟨ha, rfl⟩
  · exact ⟨hb, rfl⟩
  · exact ⟨hc, rfl⟩
  · exact ⟨hd, rfl⟩
  · exact ⟨show off = 0x100 + 4 * ((off - 0x100) / 4) by omega, rfl⟩
  · exact ⟨show off = 0x1000 + (off - 0x1000) by omega, hkey.2⟩

/-- The register at an address, both ways: the window's map is its registers at their offsets (20_memory.md R57). -/
theorem regAtAddress_eq_some_iff {cap : Capacity} {base addr : Nat} {r : HostReg} :
    regAtAddress cap base addr = some r ↔ addr = base + r.offset ∧ r.present cap = true := by
  constructor
  · intro h
    unfold regAtAddress at h
    split at h
    next hle =>
      obtain ⟨hoff, hpresent⟩ := offset_of_regAtOffset h
      exact ⟨by omega, hpresent⟩
    next => cases h
  · rintro ⟨rfl, hpresent⟩
    exact regAtAddress_offset base hpresent

theorem regAtOffset_eq_some_iff {cap : Capacity} {off : Nat} {r : HostReg} :
    regAtOffset cap off = some r ↔ off = r.offset ∧ r.present cap = true := by
  have h : regAtAddress cap 0 off = some r ↔ off = 0 + r.offset ∧ r.present cap = true := regAtAddress_eq_some_iff
  simpa [regAtAddress] using h

/-! ### Two closed forms -/

/-- The quadratic function of the exact product, reduced once (40_primitives.md R107). -/
theorem quad5_eq_ofNat (x : Word) : quad5 x = (BitVec.ofNat 32 (x.toNat * (2 * x.toNat + 1))).rotateLeft 5 := by
  have hproduct : BitVec.ofNat 32 (x.toNat * (2 * x.toNat + 1)) = x * (2#32 * x + 1#32) := by
    rw [BitVec.ofNat_mul, BitVec.ofNat_add, BitVec.ofNat_mul, BitVec.ofNat_toNat, BitVec.setWidth_eq]
  rw [quad5_eq, hproduct]

theorem initialSubkey_eq (i : Nat) : initialSubkey i = Config.p32 + BitVec.ofNat 32 i * Config.q32 := by
  induction i with
  | zero => simp [initialSubkey]
  | succ i ih => rw [initialSubkey, ih, add32, BitVec.ofNat_add, BitVec.add_mul, BitVec.one_mul, BitVec.add_assoc]

end Sys2Proof.Machine

namespace Sys2Proof.Proofs

open Sys2Proof.Machine

/-- Settles O1: the five words are those of the encoder, the other two select no row of the map (30_encoding.md R80,
R81, R83). -/
theorem sampleWordsDecode : Obligations.SampleWordsDecode :=
  ⟨decode_encode .keyexp, decode_encode .encrypt, decode_encode .decrypt, decode_encode .rotl, decode_encode .rotr,
    by decide, by decide⟩

/-- Settles O2: every row of the opcode map compares the whole word (30_encoding.md R80, R81). -/
theorem decodeAndEncodeAgree : Obligations.DecodeAndEncodeAgree :=
  decode_eq_ok_iff

/-- Settles O13: words multiply mod 2^32, so the exact product may be reduced once (40_primitives.md R107). -/
theorem quadraticFunctionReducesOnce : Obligations.QuadraticFunctionReducesOnce :=
  fun x => ⟨quad5_eq x, quad5_eq_ofNat x⟩

/-- Settles O17: by induction each element is one `Q32` further from `P32` (41_keysched.md R123). -/
theorem initialSubkeysClosedForm : Obligations.InitialSubkeysClosedForm := by
  intro i hi
  rw [← subkeyAt_of_lt _ _ hi, subkeyAt_initialSubkeys i hi, initialSubkey_eq, Config.p32, Config.q32]

/-- Settles O27: a register stands at an offset exactly when it is the register's own and the block has the register
(20_memory.md R57). -/
theorem windowMapIsExact : Obligations.WindowMapIsExact := by
  intro cap off
  simp only [regAtOffset_eq_some_iff]
  refine ⟨and_iff_left rfl, and_iff_left rfl, and_iff_left rfl, and_iff_left rfl, and_iff_left rfl, and_iff_left rfl,
    and_iff_left rfl, fun i => and_iff_left rfl, fun n => ?_, fun r hr => ?_, fun n => rfl⟩
  · exact and_congr_right fun _ => indexes_iff cap n
  · cases r with
    | key n => exact absurd rfl (hr n)
    | _ => rfl

end Sys2Proof.Proofs
end

section
/-! PROOFS. The host port, one access at a time: the events that a step can take, and what each leaves. -/

namespace Sys2Proof.Machine

/-! ### Which register an access reaches -/

/-- With no access pending the block does nothing (entry 15). -/
theorem step_of_no_pending {s : State} (hp : s.pending = []) : step s = .next s := by
  simp [step, hp]

/-- The step of an access is what the event does to the state with the event taken from the list. -/
theorem step_of_pending {s : State} {e : HostEvent} {rest : List HostEvent} (hp : s.pending = e :: rest) :
    step s = hostEvent e { s with pending := rest } := by
  simp [step, hp]

theorem accessRegister_of_unmapped {addr width : Nat} {s : State}
    {access : HostReg → Host.Outcome State Fault Refusal} (h : regAtAddress s.bmax s.base addr = none) :
    accessRegister addr width s access = .fault (.unmappedAddress addr) := by
  simp [accessRegister, h]

theorem accessRegister_of_mapped {addr width : Nat} {s : State}
    {access : HostReg → Host.Outcome State Fault Refusal} {r : HostReg}
    (h : regAtAddress s.bmax s.base addr = some r) :
    accessRegister addr width s access = if width = r.width then access r else .refused (.wrongWidth r width) := by
  simp [accessRegister, h]

/-- An access that goes on reaches a register that the block has, in the register's own width (20_memory.md R54). -/
theorem exists_reg_of_accessRegister {addr width : Nat} {s t : State}
    {access : HostReg → Host.Outcome State Fault Refusal} (h : accessRegister addr width s access = .next t) :
    ∃ r : HostReg, r.present s.bmax = true ∧ addr = s.base + r.offset ∧ width = r.width ∧ access r = .next t := by
  cases hreg : regAtAddress s.bmax s.base addr with
  | none => cases (accessRegister_of_unmapped hreg).symm.trans h
  | some r =>
    obtain ⟨haddr, hpresent⟩ := regAtAddress_eq_some_iff.mp hreg
    rw [accessRegister_of_mapped hreg] at h
    split at h
    next hwidth => exact ⟨r, hpresent, haddr, hwidth, h⟩
    next => cases h

/-! ### The steps that take an access, as a relation -/

/-- The accesses that a step from `s` can take with `rest` left to come, each with the state it leaves (20_memory.md
R54, R55). -/
inductive Takes (s : State) (rest : List HostEvent) : HostEvent → State → Prop
  | reset : Takes s rest .reset (State.afterReset s.bmax s.base rest s.returned s.draws)
  | command {w : Word} {t : State} (h : commandWrite w { s with pending := rest } = .next t) :
      Takes s rest (.write s.base 32 w) t
  | write {r : HostReg} (v : BitVec r.width) (hr : r ≠ .cmd) (hpresent : r.present s.bmax = true) :
      Takes s rest (.write (s.base + r.offset) r.width v)
        (State.hostWriteData { s with pending := rest } r (v.setWidth 32))
  | read {r : HostReg} (hpresent : r.present s.bmax = true) :
      Takes s rest (.read (s.base + r.offset) r.width) (State.hostRead { s with pending := rest } r)

/-- A step that goes on takes its access as the relation says. -/
theorem takes_of_step {s t : State} {e : HostEvent} {rest : List HostEvent} (hp : s.pending = e :: rest)
    (h : step s = .next t) : Takes s rest e t := by
  rw [step_of_pending hp] at h
  cases e with
  | reset => cases h; exact .reset
  | write addr width v =>
    obtain ⟨r, hpresent, rfl, rfl, hwrite⟩ := exists_reg_of_accessRegister h
    by_cases hr : r = .cmd
    · subst hr
      exact .command ((congrArg (commandWrite · _) (BitVec.setWidth_eq v)).symm.trans hwrite)
    · rw [hostWrite_of_ne_cmd _ _ hr] at hwrite
      cases hwrite
      exact .write v hr hpresent
  | read addr width =>
    obtain ⟨r, hpresent, rfl, rfl, hread⟩ := exists_reg_of_accessRegister h
    cases hread
    exact .read hpresent

/-- A step that goes on takes the oldest pending access, if there is one. -/
theorem step_inv {s t : State} (h : step s = .next t) :
    t = s ∨ ∃ e rest, s.pending = e :: rest ∧ Takes s rest e t := by
  cases hp : s.pending with
  | nil =>
    exact .inl (Host.Outcome.next.inj (h.symm.trans (step_of_no_pending hp)))
  | cons e rest => exact .inr ⟨e, rest, rfl, takes_of_step hp h⟩

/-! ### Writes and reads of present registers -/

theorem hostWrite_next (r : HostReg) (v : Word) (s : State) : ∃ t, hostWrite r v s = .next t := by
  by_cases hr : r = .cmd
  · subst hr
    rcases commandWrite_cases v s with ⟨i, -, hexec⟩ | ⟨-, hfault⟩
    · obtain ⟨t, ht⟩ := exec_next i s
      exact ⟨t, hexec.trans ht⟩
    · exact ⟨_, hfault⟩
  · exact ⟨_, hostWrite_of_ne_cmd v s hr⟩

/-- A taken write of a present data register is its `hostWriteData` (20_memory.md R55). -/
theorem step_of_write_data {s : State} {rest : List HostEvent} {r : HostReg} {v : BitVec r.width}
    (hp : s.pending = .write (s.base + r.offset) r.width v :: rest) (hr : r ≠ .cmd)
    (hpresent : r.present s.bmax = true) :
    step s = .next (State.hostWriteData { s with pending := rest } r (v.setWidth 32)) :=
  (step_of_write hp (regAtAddress_offset s.base hpresent)).trans (hostWrite_of_ne_cmd _ _ hr)

/-- A taken write of a word-wide data register stores the word as it is. -/
theorem step_of_write_word {s : State} {rest : List HostEvent} {r : HostReg} {v : Word} (hwidth : r.width = 32)
    (hp : s.pending = .write (s.base + r.offset) 32 v :: rest) (hr : r ≠ .cmd) (hpresent : r.present s.bmax = true) :
    step s = .next (State.hostWriteData { s with pending := rest } r v) := by
  have hreg := accessRegister_of_mapped (s := { s with pending := rest }) (width := 32)
    (access := fun r => hostWrite r (v.setWidth 32) { s with pending := rest }) (regAtAddress_offset s.base hpresent)
  rw [if_pos hwidth.symm, hostWrite_of_ne_cmd _ _ hr, BitVec.setWidth_eq] at hreg
  exact (step_of_pending hp).trans hreg

/-- A taken write of a present key byte stores the byte (20_memory.md R55). -/
theorem step_of_write_key {s : State} {rest : List HostEvent} {n : Nat} {v : Byte}
    (hp : s.pending = .write (s.base + HostReg.offset (.key n)) 8 v :: rest)
    (hpresent : ∀ m, s.bmax = .bytes m → n < m) :
    step s = .next { s with key := Memory.write s.key n v, pending := rest } := by
  have hbyte : (v.setWidth 32).setWidth 8 = v := by simp
  rw [step_of_write_data (r := .key n) hp nofun ((indexes_iff _ _).mpr hpresent)]
  exact congrArg (fun b => Host.Outcome.next { s with key := Memory.write s.key n b, pending := rest }) hbyte

/-- A taken read of a present register answers its value (20_memory.md R55). -/
theorem returned_of_read {s : State} {rest : List HostEvent} {r : HostReg}
    (hp : s.pending = .read (s.base + r.offset) r.width :: rest) (hpresent : r.present s.bmax = true) :
    ∃ t, step s = .next t ∧ t.returned = some (State.hostReadValue { s with pending := rest } r) :=
  ⟨_, step_of_read hp (regAtAddress_offset s.base hpresent), rfl⟩

theorem statusWord_eq_zero {s : State} (hsvalid : s.svalid = false) (herr : s.err = 0#4) : s.statusWord = 0#32 := by
  rw [State.statusWord, hsvalid, herr]
  rfl

/-- `STATUS` read as a number: `SVALID` is bit 0 and `ERR` stands in bits 7:4 (10_state.md R29). -/
theorem statusWord_toNat (s : State) : s.statusWord.toNat = 16 * s.err.toNat + (if s.svalid then 1 else 0) := by
  have h : ∀ (v : Bool) (e : BitVec 4),
      ((0#24 ++ e ++ 0#3 ++ BitVec.ofBool v).setWidth 32 : Word).toNat = 16 * e.toNat + (if v then 1 else 0) := by
    decide
  exact h s.svalid s.err

end Sys2Proof.Machine

namespace Sys2Proof.Proofs

open Sys2Proof.Machine

/-- Settles O3: the write reaches `CMD`, whose write runs the decoded command (10_state.md R28). -/
theorem stepRunsTheDecodedCommand : Obligations.StepRunsTheDecodedCommand := by
  intro s w i rest hp hdecode
  obtain rfl := eq_encode_of_decode hdecode
  exact (step_of_write_cmd hp).trans (commandWrite_encode i _)

/-- Settles O4: the placed access is the script line that names the command. -/
theorem placedCommandRunsNext : Obligations.PlacedCommandRunsNext := by
  intro s i
  have hword : BitVec.ofNat 32 ((encode i).toNat % 2 ^ 32) = encode i := by
    rw [Nat.mod_eq_of_lt (encode i).isLt, BitVec.ofNat_toNat, BitVec.setWidth_eq]
  refine step_of_command (s := s.withFetchWord 32 (encode i).toNat) (rest := s.pending) ?_
  rw [State.withFetchWord, hword]
  rfl

/-- Settles O5: `step` matches on the list of pending accesses. -/
theorem nothingPendingNothingHappens : Obligations.NothingPendingNothingHappens :=
  fun _ => step_of_no_pending

/-- Settles O7: both states are `afterReset`, whose control state is fixed (10_state.md R38). -/
theorem resetDefinesControlState : Obligations.ResetDefinesControlState :=
  ⟨⟨rfl, rfl, rfl⟩, fun _ _ hp => ⟨_, step_of_pending hp, rfl, rfl, statusWord_eq_zero rfl rfl, rfl, rfl, rfl⟩⟩

/-- Settles O8: after a reset `KLEN` and `SVALID` are 0, so `KEYEXP` and the transforms fail their checks
(70_reset_and_hazards.md R191). -/
theorem firstCommandsAfterReset : Obligations.FirstCommandsAfterReset := by
  intro s t rest hp ht
  cases takes_of_step hp ht
  have hlength : keyLengthFault (State.afterReset s.bmax s.base rest s.returned s.draws) = some .invalidKeyLength :=
    (keyLengthFault_eq_invalidKeyLength_iff _).mpr (.inl rfl)
  exact ⟨exec_keyexp_of_fault hlength, exec_transform_of_not_svalid (.inl rfl) rfl,
    exec_transform_of_not_svalid (.inr rfl) rfl, ⟨_, exec_rotl _, statusWord_eq_zero rfl rfl⟩,
    ⟨_, exec_rotr _, statusWord_eq_zero rfl rfl⟩⟩

/-- Settles O28: the map is looked up first, the width compared then (20_memory.md R54). -/
theorem meaninglessAccessStops : Obligations.MeaninglessAccessStops := by
  intro s addr width value rest hp
  obtain ⟨access, hstep⟩ : ∃ access, step s = accessRegister addr width { s with pending := rest } access := by
    rcases hp with hp | hp
    · exact ⟨_, step_of_pending hp⟩
    · exact ⟨_, step_of_pending hp⟩
  refine ⟨fun hnone => hstep.trans (accessRegister_of_unmapped hnone), fun r hreg hwidth => ?_⟩
  exact (hstep.trans (accessRegister_of_mapped hreg)).trans (if_neg hwidth)

/-- Settles O29: each offset is that of a present register, and `hostWriteData` writes that register alone (20_memory.md
R55). -/
theorem hostWritesChangeOneRegister : Obligations.HostWritesChangeOneRegister := by
  intro s rest
  refine ⟨fun v => ⟨fun hp => step_of_write_word (r := .status) rfl hp nofun rfl,
    fun hp => step_of_write_word (r := .klen) rfl hp nofun rfl,
    fun hp => step_of_write_word (r := .a) rfl hp nofun rfl,
    fun hp => step_of_write_word (r := .b) rfl hp nofun rfl,
    fun hp => step_of_write_word (r := .c) rfl hp nofun rfl,
    fun hp => step_of_write_word (r := .d) rfl hp nofun rfl, fun i hi hp => ?_⟩, fun n v hp hpresent => ?_⟩
  · rw [Nat.add_assoc] at hp
    exact step_of_write_word (r := .subkey ⟨i, hi⟩) rfl hp nofun rfl
  · rw [Nat.add_assoc] at hp
    refine ⟨_, step_of_write_key hp hpresent, ?_, fun k hk => ?_, rfl⟩
    · exact (Memory.read?_write s.key n n v).trans (if_pos rfl)
    · exact (Memory.read?_write s.key n k v).trans (if_neg hk)

/-- Settles O30: each offset is that of a present register, whose read answers `hostReadValue` (20_memory.md R55). -/
theorem hostReadsAnswerTheRegister : Obligations.HostReadsAnswerTheRegister := by
  intro s rest
  refine ⟨fun hp => returned_of_read (r := .cmd) hp rfl, fun hp => ?status,
    fun hp => returned_of_read (r := .klen) (rest := rest) hp rfl,
    fun hp => returned_of_read (r := .a) (rest := rest) hp rfl,
    fun hp => returned_of_read (r := .b) (rest := rest) hp rfl,
    fun hp => returned_of_read (r := .c) (rest := rest) hp rfl,
    fun hp => returned_of_read (r := .d) (rest := rest) hp rfl, fun n v hp hpresent hread => ?key⟩
  case status =>
    obtain ⟨t, ht, hreturned⟩ := returned_of_read (r := .status) hp rfl
    exact ⟨t, _, ht, hreturned, statusWord_toNat _⟩
  case key =>
    rw [Nat.add_assoc] at hp
    obtain ⟨t, ht, hreturned⟩ := returned_of_read (r := .key n) hp ((indexes_iff _ _).mpr hpresent)
    have hbyte : State.keyByte { s with pending := rest } n = v := keyByte_of_read? hread
    exact ⟨t, ht, hreturned.trans (congrArg (fun b => some (Datum.byte b)) hbyte)⟩

end Sys2Proof.Proofs
end

section
/-! PROOFS. What a step can change: the effects of a `CMD` write, the fields each access keeps, and the invariant. -/

namespace Sys2Proof.Machine

/-! ### The effects of a command write, as a relation -/

/-- All that a write of a word to `CMD` can leave from `s`: the three kinds of command with the fault that each can
raise, and the illegal word (60_exceptions.md R160). -/
inductive CommandEffect (s : State) : Word → State → Prop
  | illegal {w : Word} (hw : ∀ i, w ≠ encode i) : CommandEffect s w (s.raiseFault .illegalCommand)
  | keyexpFault {c : Cause} (hc : c = .invalidKeyLength ∨ c = .resourceError) (h : keyLengthFault s = some c) :
      CommandEffect s (encode .keyexp) (s.raiseFault c)
  | keyexp (h : s.keyLengthOk) : CommandEffect s (encode .keyexp) (keyexpResult s)
  | transformFault {i : Instr} (hi : i = .encrypt ∨ i = .decrypt) (h : s.svalid = false) :
      CommandEffect s (encode i) (s.raiseFault .subkeysNotReady)
  | transform {i : Instr} (x : Block) (hi : i = .encrypt ∨ i = .decrypt) (h : s.svalid = true) :
      CommandEffect s (encode i) (s.setBlock x).completeTransform
  | rotate {i : Instr} (x : Word) (hi : i = .rotl ∨ i = .rotr) :
      CommandEffect s (encode i) (State.completeRotate { s with a := x })

theorem commandEffect_runTransform {i : Instr} (hi : i = .encrypt ∨ i = .decrypt) (f : Subkeys → Block → Block)
    (s : State) : CommandEffect s (encode i) (s.runTransform f) := by
  cases hs : s.svalid with
  | true =>
    rw [runTransform_of_svalid f hs]
    exact .transform _ hi hs
  | false =>
    rw [runTransform_of_not_svalid f hs]
    exact .transformFault hi hs

theorem commandEffect_of_exec {i : Instr} {s t : State} (h : exec i s = .next t) : CommandEffect s (encode i) t := by
  cases i with
  | keyexp =>
    rcases execKeyexp_cases s with ⟨c, hc, hfault, hexec⟩ | ⟨hok, hexec⟩
    · cases hexec.symm.trans h
      exact .keyexpFault hc hfault
    · cases hexec.symm.trans h
      exact .keyexp hok
  | encrypt => cases h; exact commandEffect_runTransform (.inl rfl) encryptBlock s
  | decrypt => cases h; exact commandEffect_runTransform (.inr rfl) decryptBlock s
  | rotl => cases h; exact .rotate _ (.inl rfl)
  | rotr => cases h; exact .rotate _ (.inr rfl)

theorem commandEffect_of_commandWrite {w : Word} {s t : State} (h : commandWrite w s = .next t) :
    CommandEffect s w t := by
  rcases commandWrite_cases w s with ⟨i, hdecode, hexec⟩ | ⟨⟨e, hdecode⟩, hfault⟩
  · rw [eq_encode_of_decode hdecode]
    exact commandEffect_of_exec (hexec.symm.trans h)
  · cases hfault.symm.trans h
    refine .illegal fun i hi => ?_
    subst hi
    cases (decode_encode i).symm.trans hdecode

/-! ### What no command and no data access changes -/

/-- What a step keeps of `s` besides taking an access, a reset included: the parameters (00_scope.md R6) and the rest
of the pending accesses. -/
structure Continues (s : State) (rest : List HostEvent) (t : State) : Prop where
  bmax : t.bmax = s.bmax
  base : t.base = s.base
  pending : t.pending = rest

/-- What a command keeps (41_keysched.md R129, 42_block.md R146). -/
structure CommandKeeps (s t : State) : Prop where
  key : t.key = s.key
  klen : t.klen = s.klen
  seq : t.seq = s.seq
  continues : Continues s s.pending t

theorem CommandEffect.keeps {s t : State} {w : Word} (h : CommandEffect s w t) : CommandKeeps s t := by
  cases h with
  | _ => exact ⟨rfl, rfl, rfl, rfl, rfl, rfl⟩

section
variable (s : State) (r : HostReg) (v : Word)

@[simp] theorem hostWriteData_subkeys : (s.hostWriteData r v).subkeys = s.subkeys := by cases r <;> rfl
@[simp] theorem hostWriteData_svalid : (s.hostWriteData r v).svalid = s.svalid := by cases r <;> rfl
@[simp] theorem hostWriteData_err : (s.hostWriteData r v).err = s.err := by cases r <;> rfl
@[simp] theorem hostWriteData_bmax : (s.hostWriteData r v).bmax = s.bmax := by cases r <;> rfl
@[simp] theorem hostWriteData_base : (s.hostWriteData r v).base = s.base := by cases r <;> rfl
@[simp] theorem hostWriteData_pending : (s.hostWriteData r v).pending = s.pending := by cases r <;> rfl

variable {r}

theorem hostWriteData_klen_of_ne (h : r ≠ .klen) : (s.hostWriteData r v).klen = s.klen := by
  cases r with
  | klen => exact absurd rfl h
  | _ => rfl

theorem hostWriteData_key_of_ne (h : ∀ n, r ≠ .key n) : (s.hostWriteData r v).key = s.key := by
  cases r with
  | key n => exact absurd rfl (h n)
  | _ => rfl

end

/-- Every access leaves the parameters and the accesses after it. -/
theorem Takes.continues {s t : State} {e : HostEvent} {rest : List HostEvent} (h : Takes s rest e t) :
    Continues s rest t := by
  cases h with
  | reset => exact ⟨rfl, rfl, rfl⟩
  | command hcommand =>
    obtain ⟨hbmax, hbase, hpending⟩ := (commandEffect_of_commandWrite hcommand).keeps.continues
    exact ⟨hbmax, hbase, hpending⟩
  | write v => exact ⟨hostWriteData_bmax .., hostWriteData_base .., hostWriteData_pending ..⟩
  | read => exact ⟨rfl, rfl, rfl⟩

/-! ### The legal values of `STATUS` -/

/-- `SVALID` and `ERR` as a legal `STATUS` word has them: the two `KEYEXP` faults and `SubkeysNotReady` leave no valid
subkeys (10_state.md R29). -/
theorem statusWord_mem_iff (s : State) :
    s.statusWord ∈ legalStatusWords ↔
      s.err = 0#4 ∨ s.err = 4#4 ∨ s.svalid = false ∧ (s.err = 1#4 ∨ s.err = 2#4 ∨ s.err = 3#4) := by
  have h : ∀ (v : Bool) (e : BitVec 4), (0#24 ++ e ++ 0#3 ++ BitVec.ofBool v).setWidth 32 ∈ legalStatusWords ↔
      e = 0#4 ∨ e = 4#4 ∨ v = false ∧ (e = 1#4 ∨ e = 2#4 ∨ e = 3#4) := by
    decide
  exact h s.svalid s.err

theorem statusWord_mem_of_err_eq_zero {s : State} (h : s.err = 0#4) : s.statusWord ∈ legalStatusWords :=
  (statusWord_mem_iff s).mpr (.inl h)

/-- `STATUS` is made of `SVALID` and `ERR` alone. -/
theorem statusWord_congr {s t : State} (hsvalid : t.svalid = s.svalid) (herr : t.err = s.err) :
    t.statusWord = s.statusWord := by
  rw [State.statusWord, State.statusWord, hsvalid, herr]

/-- A command leaves a legal `STATUS` whatever stood there: it writes `ERR` (60_exceptions.md R169). -/
theorem CommandEffect.statusWord_mem {s t : State} {w : Word} (h : CommandEffect s w t) :
    t.statusWord ∈ legalStatusWords := by
  cases h with
  | illegal => exact (statusWord_mem_iff _).mpr (.inr (.inl rfl))
  | keyexpFault hc =>
    rcases hc with rfl | rfl
    · exact (statusWord_mem_iff _).mpr (.inr (.inr ⟨rfl, .inl rfl⟩))
    · exact (statusWord_mem_iff _).mpr (.inr (.inr ⟨rfl, .inr (.inl rfl)⟩))
  | transformFault _ hs => exact (statusWord_mem_iff _).mpr (.inr (.inr ⟨hs, .inr (.inr rfl)⟩))
  | keyexp | transform | rotate => exact statusWord_mem_of_err_eq_zero rfl

theorem Takes.statusWord_mem {s t : State} {e : HostEvent} {rest : List HostEvent} (h : Takes s rest e t)
    (hs : s.statusWord ∈ legalStatusWords) : t.statusWord ∈ legalStatusWords := by
  cases h with
  | reset => exact statusWord_mem_of_err_eq_zero rfl
  | command hcommand => exact (commandEffect_of_commandWrite hcommand).statusWord_mem
  | write v =>
    exact (statusWord_congr (hostWriteData_svalid ..) (hostWriteData_err ..)).symm ▸ hs
  | read => exact hs

/-! ### The invariant -/

theorem afterReset_inv {cap : Capacity} (hcap : cap.wellFormed = true) (base : Nat) (p : List HostEvent)
    (r : Option Datum) (n : Nat) : (State.afterReset cap base p r n).Inv where
  key_wf := List.Pairwise.nil
  key_present := nofun
  keyWords_fit := (fits_iff _ _).mpr fun m _ => Nat.zero_le m
  status_legal := statusWord_mem_of_err_eq_zero rfl
  seq_idle := rfl
  bmax_wf := hcap

@[simp] theorem keyexpResult_keyWords_length (s : State) :
    (keyexpResult s).keyWords.length = max (keyWordCount s.klen) s.keyWords.length :=
  mixAfter_keyWords_length s (keyWordCount s.klen) _

/-- `KEYEXP` lets `L` grow to the words of a key that fits, and no other command touches it (10_state.md R20). -/
theorem CommandEffect.keyWords_fit {s t : State} {w : Word} (h : CommandEffect s w t)
    (hfit : Capacity.fits s.bmax (4 * s.keyWords.length) = true) :
    Capacity.fits t.bmax (4 * t.keyWords.length) = true := by
  cases h with
  | keyexp hok =>
    obtain ⟨-, -, hcount⟩ := keyWordCount_bounds hok
    refine (fits_iff s.bmax _).mpr fun m hm => ?_
    have hkey : s.klen.toNat ≤ m := (fits_iff _ _).mp hok.2.2 m hm
    have hold : 4 * s.keyWords.length ≤ m := (fits_iff _ _).mp hfit m hm
    rw [keyexpResult_keyWords_length]
    omega
  | illegal | keyexpFault | transformFault | transform | rotate => exact hfit

theorem CommandEffect.inv {s t : State} {w : Word} (h : CommandEffect s w t) (hs : s.Inv) : t.Inv := by
  obtain ⟨hkey, -, hseq, hbmax, -, -⟩ := h.keeps
  exact {
    key_wf := hkey ▸ hs.key_wf
    key_present := hkey ▸ hbmax ▸ hs.key_present
    keyWords_fit := h.keyWords_fit hs.keyWords_fit
    status_legal := h.statusWord_mem
    seq_idle := hseq.trans hs.seq_idle
    bmax_wf := hbmax ▸ hs.bmax_wf }

/-- A write of a register that the block has keeps `KEY` in its one form and inside `BMAX` (20_memory.md R57). -/
theorem hostWriteData_inv {s : State} {r : HostReg} (v : Word) (hpresent : r.present s.bmax = true) (hs : s.Inv) :
    (s.hostWriteData r v).Inv := by
  obtain ⟨hwf, hkey, hfit, hstatus, hseq, hbmax⟩ := hs
  cases r with
  | key n =>
    refine ⟨Memory.write_wf n _ hwf, fun c hc => ?_, hfit, hstatus, hseq, hbmax⟩
    rcases Memory.mem_write hc with rfl | hold
    · exact hpresent
    · exact hkey c hold
  | _ => exact ⟨hwf, hkey, hfit, hstatus, hseq, hbmax⟩

/-- The list of pending accesses is no part of the invariant. -/
theorem inv_withPending {s : State} (rest : List HostEvent) (hs : s.Inv) : State.Inv { s with pending := rest } :=
  ⟨hs.key_wf, hs.key_present, hs.keyWords_fit, hs.status_legal, hs.seq_idle, hs.bmax_wf⟩

theorem hostRead_inv {s : State} (r : HostReg) (hs : s.Inv) : (s.hostRead r).Inv :=
  ⟨hs.key_wf, hs.key_present, hs.keyWords_fit, hs.status_legal, hs.seq_idle, hs.bmax_wf⟩

theorem Takes.inv {s t : State} {e : HostEvent} {rest : List HostEvent} (h : Takes s rest e t) (hs : s.Inv) :
    t.Inv := by
  cases h with
  | reset => exact afterReset_inv hs.bmax_wf ..
  | command hcommand => exact (commandEffect_of_commandWrite hcommand).inv (inv_withPending rest hs)
  | write v _ hpresent => exact hostWriteData_inv _ hpresent (inv_withPending rest hs)
  | read => exact hostRead_inv _ (inv_withPending rest hs)

/-! ### `SVALID` after a command -/

/-- `KEYEXP` leaves valid subkeys exactly when it accepts the key length (10_state.md R26). -/
theorem exec_keyexp_svalid_iff {s t : State} (h : exec .keyexp s = .next t) : t.svalid = true ↔ s.keyLengthOk := by
  rcases execKeyexp_cases s with ⟨c, hc, hfault, hexec⟩ | ⟨hok, hexec⟩
  · cases hexec.symm.trans h
    have hcleared : (s.raiseFault c).svalid = false := by rcases hc with rfl | rfl <;> rfl
    have hbad : ¬ s.keyLengthOk := by simp [← keyLengthFault_eq_none_iff, hfault]
    exact iff_of_false (ne_true_of_eq_false hcleared) hbad
  · cases hexec.symm.trans h
    exact iff_of_true rfl hok

/-- A transform leaves no valid subkeys: it discards them, or there were none (10_state.md R26). -/
theorem svalid_of_exec_transform {i : Instr} {s t : State} (hi : i = .encrypt ∨ i = .decrypt)
    (h : exec i s = .next t) : t.svalid = false := by
  cases hs : s.svalid with
  | false =>
    cases (exec_transform_of_not_svalid hi hs).symm.trans h
    exact hs
  | true =>
    obtain ⟨f, hf⟩ := exists_exec_eq_runTransform hi
    cases (exec_transform_of_svalid hf hs).symm.trans h
    rfl

/-! ### The register that a write names -/

/-- A write whose address and value are not those of a register's write is a write of another register. -/
theorem ne_of_write_ne {base : Nat} {r r' : HostReg} {v : BitVec r.width}
    (h : ∀ v', HostEvent.write (base + r.offset) r.width v ≠ .write (base + r'.offset) r'.width v') :
    r ≠ r' := by
  rintro rfl
  exact h v rfl

end Sys2Proof.Machine

namespace Sys2Proof.Proofs

open Sys2Proof.Machine

/-- Settles O43: each access keeps the invariant, the `CMD` write by what a command can leave (10_state.md R20, R25,
R29). -/
theorem stepsKeepTheInvariant : Obligations.StepsKeepTheInvariant := by
  intro s t hs ht
  rcases step_inv ht with rfl | ⟨e, rest, -, htakes⟩
  · exact hs
  · exact htakes.inv hs

/-- Settles O42: the power-on state is a state after reset with a capacity of 256 bytes (10_state.md R38). -/
theorem invariantHoldsAtReset : Obligations.InvariantHoldsAtReset :=
  afterReset_inv (by decide) ..

/-- Settles O38: a command writes `ERR` to a legal word's, and no data access changes `STATUS` (10_state.md R29). -/
theorem statusStaysLegal : Obligations.StatusStaysLegal := by
  intro s t hs ht
  rcases step_inv ht with rfl | ⟨e, rest, -, htakes⟩
  · exact hs
  · exact htakes.statusWord_mem hs

/-- Settles O41: no access changes the parameters (00_scope.md R6). -/
theorem parametersNeverChange : Obligations.ParametersNeverChange := by
  intro s t ht
  rcases step_inv ht with rfl | ⟨e, rest, -, htakes⟩
  · exact ⟨rfl, rfl⟩
  · exact ⟨htakes.continues.bmax, htakes.continues.base⟩

/-- Settles O36: only `KEYEXP` and the transforms write `SVALID`; a rotate command, an illegal word and a data access
keep it (10_state.md R26). -/
theorem svalidFollowsCommands : Obligations.SvalidFollowsCommands := by
  intro s t e rest hp ht
  have htakes := takes_of_step hp ht
  refine ⟨?reset, ?keyexp, ?transform, fun hreset hkeyexp hencrypt hdecrypt => ?other⟩
  case reset => rintro rfl; cases htakes; rfl
  case keyexp =>
    rintro rfl
    exact exec_keyexp_svalid_iff (s := { s with pending := rest }) ((step_of_command (c := .keyexp) hp).symm.trans ht)
  case transform =>
    rintro (rfl | rfl)
    · exact svalid_of_exec_transform (.inl rfl) ((step_of_command (c := .encrypt) hp).symm.trans ht)
    · exact svalid_of_exec_transform (.inr rfl) ((step_of_command (c := .decrypt) hp).symm.trans ht)
  case other =>
    cases htakes with
    | reset => exact absurd rfl hreset
    | command hcommand =>
      cases commandEffect_of_commandWrite hcommand with
      | illegal | rotate => rfl
      | keyexpFault | keyexp => exact absurd rfl hkeyexp
      | transformFault hi | transform _ hi =>
        rcases hi with rfl | rfl
        · exact absurd rfl hencrypt
        · exact absurd rfl hdecrypt
    | write v => exact hostWriteData_svalid ..
    | read => rfl

/-- Settles O37: of the events that leave `ERR` to a command or a reset, none is a data access (60_exceptions.md
R169). -/
theorem errStandsUntilTheNextCommand : Obligations.ErrStandsUntilTheNextCommand := by
  intro s t e rest hp ht hreset hcommand
  cases takes_of_step hp ht with
  | reset => exact absurd rfl hreset
  | command => exact absurd rfl (hcommand _)
  | write v => exact hostWriteData_err ..
  | read => rfl

/-- Settles O39: of the effects of a command only that of `KEYEXP` with an accepted key writes `S` (10_state.md R34,
R37). -/
theorem onlyKeyexpWritesSubkeys : Obligations.OnlyKeyexpWritesSubkeys := by
  intro s t e rest hp ht hreset hkeyexp
  cases takes_of_step hp ht with
  | reset => exact absurd rfl hreset
  | command hcommand =>
    cases commandEffect_of_commandWrite hcommand with
    | keyexp => exact absurd rfl hkeyexp
    | illegal | keyexpFault | transformFault | transform | rotate => rfl
  | write v => exact hostWriteData_subkeys ..
  | read => rfl

/-- Settles O40: no command writes `KEY` or `KLEN`, and a data write writes its own register only (41_keysched.md R129,
42_block.md R146, 20_memory.md R55). -/
theorem onlyTheHostWritesTheKey : Obligations.OnlyTheHostWritesTheKey := by
  intro s t e rest hp ht hreset
  cases takes_of_step hp ht with
  | reset => exact absurd rfl hreset
  | command hcommand =>
    have hkeeps := (commandEffect_of_commandWrite hcommand).keeps
    exact ⟨fun _ => hkeeps.klen, fun _ => hkeeps.key⟩
  | @write r v =>
    refine ⟨fun hklen => hostWriteData_klen_of_ne _ _ (ne_of_write_ne hklen), fun hkey => ?_⟩
    simp only [Nat.add_assoc] at hkey
    exact hostWriteData_key_of_ne _ _ fun n => ne_of_write_ne (r' := .key n) (hkey n)
  | read => exact ⟨fun _ => rfl, fun _ => rfl⟩

end Sys2Proof.Proofs
end

section
/-! PROOFS. What the hidden state can influence: the subkeys come from the key alone, and two states that look the same
to the host go on to look the same. -/

namespace Sys2Proof.Machine

/-! ### Mixing sees `LW` words of `L` -/

/-- The mixing registers with `L` cut down to the `lw` words of the key. -/
def Mix.truncate (lw : Nat) (m : Mix) : Mix := { m with keyWords := m.keyWords.take lw }

/-- A mixing iteration inside the key reads and writes the key's words only (41_keysched.md R124). -/
theorem mixIteration_truncate {lw : Nat} {m : Mix} (h : m.j < lw) :
    mixIteration lw (m.truncate lw) = (mixIteration lw m).truncate lw := by
  have hread : keyWordAt (m.keyWords.take lw) m.j = keyWordAt m.keyWords m.j := by
    simp [keyWordAt, List.getD, List.getElem?_take_of_lt h]
  simp only [mixIteration, Mix.truncate, hread, setKeyWord, List.take_set]

theorem mixIterations_truncate {lw : Nat} (n : Nat) {m : Mix} (h : m.j < lw) :
    mixIterations lw n (m.truncate lw) = (mixIterations lw n m).truncate lw := by
  induction n generalizing m with
  | zero => rfl
  | succ n ih =>
    have hnext : (mixIteration lw m).j < lw := Nat.mod_lt _ (Nat.zero_lt_of_lt h)
    rw [mixIterations, mixIteration_truncate h, ih hnext, mixIterations]

/-- The subkeys come from the packed words of the key: what `L` held above them does not matter (41_keysched.md
R126). -/
theorem expandKey_subkeys (s : State) {lw : Nat} (hlw : 0 < lw) :
    (expandKey s lw).subkeys = (mixIterations lw (mixCount lw)
      (mixStart initialSubkeys ((List.range lw).map s.packedWord))).subkeys := by
  have hcut : (mixStart initialSubkeys (packKey s lw)).truncate lw =
      mixStart initialSubkeys ((List.range lw).map s.packedWord) := by
    simp [Mix.truncate, mixStart, packKey]
  rw [← hcut, mixIterations_truncate _ hlw]
  rfl

/-! ### The key words are made of the key bytes -/

theorem packedWord_congr {s t : State} {k : Nat} (h : ∀ n < 4 * k + 4, s.keyByte n = t.keyByte n) :
    s.packedWord k = t.packedWord k := by
  unfold State.packedWord
  congr 1 <;> exact h _ (by omega)

/-- Equal key bytes below an accepted key length give equal subkeys, whatever else differs (41_keysched.md R126). -/
theorem keyexpResult_subkeys_congr {s t : State} (hok : s.keyLengthOk) (hklen : s.klen = t.klen)
    (h : ∀ n < s.klen.toNat, s.keyByte n = t.keyByte n) :
    (keyexpResult s).subkeys = (keyexpResult t).subkeys := by
  obtain ⟨hpos, -, hcount⟩ := keyWordCount_bounds hok
  have hwords : (List.range (keyWordCount s.klen)).map s.packedWord =
      (List.range (keyWordCount s.klen)).map t.packedWord := by
    refine List.map_congr_left fun k hk => packedWord_congr fun n hn => h n ?_
    have := List.mem_range.mp hk
    omega
  calc (keyexpResult s).subkeys
    _ = (expandKey s (keyWordCount s.klen)).subkeys := rfl
    _ = (expandKey t (keyWordCount s.klen)).subkeys := by
      rw [expandKey_subkeys s hpos, expandKey_subkeys t hpos, hwords]
    _ = (keyexpResult t).subkeys := by rw [hklen]; rfl

/-- A second `KEYEXP` of a written key leaves the `S` and `L` of the first (41_keysched.md R126). -/
theorem expandKey_keyexpResult {s : State} (hok : s.keyLengthOk) (hw : s.keyWritten) :
    expandKey (keyexpResult s) (keyWordCount s.klen) = expandKey s (keyWordCount s.klen) := by
  have hpack : packKey (keyexpResult s) (keyWordCount s.klen) = packKey s (keyWordCount s.klen) :=
    packKey_eq_of_keyWritten hw rfl fun _ hj => keyexpResult_keyWords_getElem?_of_le hok hj
  rw [expandKey, hpack, expandKey]

/-! ### Operations on states that look the same -/

namespace State.sameToHost

variable {s t : State} (h : s.sameToHost t)
include h

theorem keyByte (n : Nat) : s.keyByte n = t.keyByte n := by
  rw [State.keyByte, State.keyByte, h.key, h.draws]

theorem keyLengthFault : keyLengthFault s = Machine.keyLengthFault t := by
  rw [Machine.keyLengthFault, Machine.keyLengthFault, h.klen, h.bmax]

theorem withPending (rest : List HostEvent) :
    State.sameToHost { s with pending := rest } { t with pending := rest } :=
  { h with pending := rfl }

theorem raiseFault (c : Cause) : (s.raiseFault c).sameToHost (t.raiseFault c) :=
  { h with
    svalid := congrArg (svalidAfterFault c) h.svalid
    err := rfl
    subkeys := fun hvalid => h.subkeys <| by
      cases c with
      | invalidKeyLength | resourceError => cases hvalid
      | subkeysNotReady | illegalCommand => exact hvalid }

theorem completeTransform (x : Block) :
    (s.setBlock x).completeTransform.sameToHost (t.setBlock x).completeTransform :=
  { h with block := rfl, svalid := rfl, err := rfl, subkeys := nofun }

theorem rotate (f : Word → Word → Word) :
    State.sameToHost { s with a := f s.a s.b, err := 0#4 } { t with a := f t.a t.b, err := 0#4 } :=
  { h with block := congrArg (fun y : Block => { y with a := f y.a y.b }) h.block, err := rfl }

theorem keyexpResult (hok : s.keyLengthOk) : (keyexpResult s).sameToHost (Machine.keyexpResult t) :=
  { h with
    svalid := rfl
    err := rfl
    subkeys := fun _ => keyexpResult_subkeys_congr hok h.klen fun n _ => h.keyByte n
    draws := congrArg (· + 1) h.draws }

theorem runTransform (f : Subkeys → Block → Block) : (s.runTransform f).sameToHost (t.runTransform f) := by
  cases hs : s.svalid with
  | true =>
    rw [runTransform_of_svalid f hs, runTransform_of_svalid f (h.svalid ▸ hs), h.subkeys hs, h.block]
    exact h.completeTransform _
  | false =>
    rw [runTransform_of_not_svalid f hs, runTransform_of_not_svalid f (h.svalid ▸ hs)]
    exact h.raiseFault _

theorem hostWriteData (r : HostReg) (v : Word) : (s.hostWriteData r v).sameToHost (t.hostWriteData r v) := by
  cases r with
  | cmd | status | subkey => exact h
  | klen => exact { h with klen := rfl }
  | a => exact { h with block := congrArg (fun y : Block => { y with a := v }) h.block }
  | b => exact { h with block := congrArg (fun y : Block => { y with b := v }) h.block }
  | c => exact { h with block := congrArg (fun y : Block => { y with c := v }) h.block }
  | d => exact { h with block := congrArg (fun y : Block => { y with d := v }) h.block }
  | key n => exact { h with key := congrArg (Memory.write · n _) h.key }

/-- A read answers the same: `S` is answered only while `SVALID = 1` (20_memory.md R59). -/
theorem hostReadValue (r : HostReg) : s.hostReadValue r = t.hostReadValue r := by
  cases r with
  | cmd => rfl
  | status => exact congrArg Datum.word (statusWord_congr h.svalid h.err)
  | klen => exact congrArg Datum.word h.klen
  | a => exact congrArg (Datum.word ∘ Block.a) h.block
  | b => exact congrArg (Datum.word ∘ Block.b) h.block
  | c => exact congrArg (Datum.word ∘ Block.c) h.block
  | d => exact congrArg (Datum.word ∘ Block.d) h.block
  | key n => exact congrArg Datum.byte (h.keyByte n)
  | subkey i =>
    simp only [State.hostReadValue, ← h.svalid, ← h.draws]
    split
    next hs => rw [h.subkeys hs]
    next => rfl

theorem hostRead (r : HostReg) : (s.hostRead r).sameToHost (t.hostRead r) :=
  { h with returned := congrArg some (h.hostReadValue r), draws := congrArg (· + 1) h.draws }

end State.sameToHost

/-! ### Outcomes that look the same -/

/-- Two outcomes the host cannot tell apart: states that look the same, or the same stop. -/
inductive SameOutcome : Host.Outcome State Fault Refusal → Host.Outcome State Fault Refusal → Prop
  | next {s t : State} (h : s.sameToHost t) : SameOutcome (.next s) (.next t)
  | fault (r : Fault) : SameOutcome (.fault r) (.fault r)
  | refused (r : Refusal) : SameOutcome (.refused r) (.refused r)

section
variable {s t : State} (h : s.sameToHost t)
include h

theorem exec_sameOutcome (i : Instr) : SameOutcome (exec i s) (exec i t) := by
  cases i with
  | keyexp =>
    cases hfault : keyLengthFault s with
    | some c =>
      rw [exec_keyexp_of_fault hfault, exec_keyexp_of_fault (h.keyLengthFault ▸ hfault)]
      exact .next (h.raiseFault c)
    | none =>
      have hok := (keyLengthFault_eq_none_iff s).mp hfault
      have hok' := (keyLengthFault_eq_none_iff t).mp (h.keyLengthFault ▸ hfault)
      rw [exec_keyexp_of_keyLengthOk hok, exec_keyexp_of_keyLengthOk hok']
      exact .next (h.keyexpResult hok)
  | encrypt => exact .next (h.runTransform encryptBlock)
  | decrypt => exact .next (h.runTransform decryptBlock)
  | rotl => exact .next (h.rotate rotl32)
  | rotr => exact .next (h.rotate rotr32)

theorem commandWrite_sameOutcome (w : Word) : SameOutcome (commandWrite w s) (commandWrite w t) := by
  unfold commandWrite
  cases decode w with
  | ok i => exact exec_sameOutcome h i
  | error e => exact .next (h.raiseFault .illegalCommand)

theorem hostWrite_sameOutcome (r : HostReg) (v : Word) : SameOutcome (hostWrite r v s) (hostWrite r v t) := by
  by_cases hr : r = .cmd
  · subst hr
    exact commandWrite_sameOutcome h v
  · rw [hostWrite_of_ne_cmd v s hr, hostWrite_of_ne_cmd v t hr]
    exact .next (h.hostWriteData r v)

/-- The map is the same in both states, so an access reaches the same register or stops in the same way. -/
theorem accessRegister_sameOutcome (addr width : Nat) {access access' : HostReg → Host.Outcome State Fault Refusal}
    (haccess : ∀ r, SameOutcome (access r) (access' r)) :
    SameOutcome (accessRegister addr width s access) (accessRegister addr width t access') := by
  unfold accessRegister
  rw [h.bmax, h.base]
  cases regAtAddress t.bmax t.base addr with
  | none => exact .fault _
  | some r =>
    dsimp only
    split
    · exact haccess r
    · exact .refused _

theorem hostEvent_sameOutcome (e : HostEvent) : SameOutcome (hostEvent e s) (hostEvent e t) := by
  cases e with
  | write addr width v => exact accessRegister_sameOutcome h addr width fun r => hostWrite_sameOutcome h r _
  | read addr width => exact accessRegister_sameOutcome h addr width fun r => .next (h.hostRead r)
  | reset =>
    simp only [hostEvent, h.bmax, h.base, h.pending, h.returned, h.draws]
    exact .next ⟨rfl, rfl, rfl, rfl, rfl, fun _ => rfl, rfl, rfl, rfl, rfl, rfl⟩

theorem step_sameOutcome : SameOutcome (step s) (step t) := by
  unfold step
  rw [← h.pending]
  cases s.pending with
  | nil => exact .next h
  | cons e rest => exact hostEvent_sameOutcome (h.withPending rest) e

end

end Sys2Proof.Machine

namespace Sys2Proof.Proofs

open Sys2Proof.Machine

/-- Settles O45: each operation takes states that look the same to outcomes that look the same; `KEYEXP` overwrites all
of `L` that it reads (10_state.md R36, R37). -/
theorem hiddenStateIsUnobservable : Obligations.HiddenStateIsUnobservable := by
  intro s₁ s₂ h
  have hsame := step_sameOutcome h
  generalize step s₁ = o₁ at *
  generalize step s₂ = o₂ at *
  cases hsame with
  | next h => exact ⟨fun _ ht => ⟨_, rfl, Host.Outcome.next.inj ht ▸ h⟩, nofun, nofun⟩
  | fault r => exact ⟨nofun, fun _ hr => hr, nofun⟩
  | refused r => exact ⟨nofun, nofun, fun _ hr => hr⟩

/-- Settles O20: the mixing starts from the packed key words and sees no more of `L` (41_keysched.md R126). -/
theorem subkeysDependOnKeyOnly : Obligations.SubkeysDependOnKeyOnly := by
  refine ⟨fun s₁ s₂ hok₁ hok₂ hw hklen hkey => ?_, fun s hok hw => ?_⟩
  · refine ⟨_, _, exec_keyexp_of_keyLengthOk hok₁, exec_keyexp_of_keyLengthOk hok₂, ?_⟩
    refine keyexpResult_subkeys_congr hok₁ hklen fun n hn => ?_
    obtain ⟨v, hv⟩ := hw n hn
    rw [keyByte_of_read? hv, keyByte_of_read? ((hkey n hn).symm.trans hv)]
  · have hagain : (keyexpResult s).keyLengthOk := hok
    have hsame := expandKey_keyexpResult hok hw
    exact ⟨_, _, exec_keyexp_of_keyLengthOk hok, exec_keyexp_of_keyLengthOk hagain, congrArg Mix.subkeys hsame,
      congrArg Mix.keyWords hsame⟩

end Sys2Proof.Proofs
end

section
/-! PROOFS. Accesses in a row: a repeated read or write, the key loading script, and a host that is never stopped. -/

namespace Sys2Proof.Machine

/-! ### The same access again -/

@[simp] theorem Memory.write_write (m : Memory) (n : Nat) (v : Byte) :
    Memory.write (Memory.write m n v) n v = Memory.write m n v := by
  induction m with
  | nil => simp [Memory.write]
  | cons c m ih =>
    obtain ⟨k, w⟩ := c
    by_cases hlt : n < k
    · simp [Memory.write, hlt]
    · by_cases heq : n = k
      · simp [Memory.write, heq]
      · simp [Memory.write, hlt, heq, ih]

/-- A register keeps the value last written to it, so the same write again changes nothing (20_memory.md R56). -/
theorem hostWriteData_hostWriteData (s : State) (r : HostReg) (v : Word) :
    (s.hostWriteData r v).hostWriteData r v = s.hostWriteData r v := by
  cases r with
  | key n => exact congrArg (fun m => { s with key := m }) (Memory.write_write s.key n _)
  | _ => rfl

/-- The value read does not depend on the draw when the register is no `S[i]` without valid subkeys and no key byte
that nothing has written (20_memory.md R56; entries 3, 4). -/
theorem hostReadValue_eq_of_defined {s : State} {r : HostReg} (p : List HostEvent) (d : Option Datum) (n : Nat)
    (hsubkey : ∀ i, r = .subkey i → s.svalid = true)
    (hkey : ∀ n, r = .key n → ∃ v, Memory.read? s.key n = some v) :
    State.hostReadValue { s with pending := p, returned := d, draws := n } r = s.hostReadValue r := by
  cases r with
  | subkey i =>
    have hs := hsubkey i rfl
    rw [hostReadValue_subkey_of_svalid i hs]
    exact hostReadValue_subkey_of_svalid i hs
  | key k =>
    obtain ⟨v, hv⟩ := hkey k rfl
    have hbyte : State.keyByte { s with pending := p, returned := d, draws := n } k = v := keyByte_of_read? hv
    exact congrArg Datum.byte (hbyte.trans (keyByte_of_read? hv).symm)
  | _ => rfl

/-- A taken read is a read of a register that the block has. -/
theorem exists_reg_of_read {s t : State} {addr width : Nat} {rest : List HostEvent}
    (hp : s.pending = .read addr width :: rest) (h : step s = .next t) :
    ∃ r : HostReg, regAtAddress s.bmax s.base addr = some r ∧ width = r.width ∧
      t = State.hostRead { s with pending := rest } r := by
  obtain ⟨r, hpresent, rfl, rfl, hread⟩ := exists_reg_of_accessRegister ((step_of_pending hp).symm.trans h)
  exact ⟨r, regAtAddress_offset s.base hpresent, rfl, (Host.Outcome.next.inj hread).symm⟩

theorem withPending_self {s : State} {rest : List HostEvent} (h : s.pending = rest) :
    { s with pending := rest } = s := by
  subst h
  rfl

/-- A taken data write, pending again, is taken again and leaves the same state (20_memory.md R56). -/
theorem step_of_write_again {s t : State} {rest : List HostEvent} {r : HostReg} {v : BitVec r.width} (hr : r ≠ .cmd)
    (hpresent : r.present s.bmax = true)
    (ht : t = State.hostWriteData { s with pending := rest } r (v.setWidth 32)) :
    step { t with pending := .write (s.base + r.offset) r.width v :: rest } = .next t := by
  have hbmax : t.bmax = s.bmax := ht ▸ hostWriteData_bmax ..
  have hbase : t.base = s.base := ht ▸ hostWriteData_base ..
  have hpending : t.pending = rest := ht ▸ hostWriteData_pending ..
  have hreg : regAtAddress t.bmax t.base (s.base + r.offset) = some r := by
    rw [hbmax, hbase]
    exact regAtAddress_offset s.base hpresent
  calc step { t with pending := .write (s.base + r.offset) r.width v :: rest }
    _ = hostWrite r (v.setWidth 32) { t with pending := rest } := step_of_write rfl hreg
    _ = .next (t.hostWriteData r (v.setWidth 32)) := by
      rw [hostWrite_of_ne_cmd _ _ hr, withPending_self hpending]
    _ = .next t := by rw [ht, hostWriteData_hostWriteData]

/-! ### Writes of key bytes in a row -/

/-- `KEY` after a list of bytes is written from index `n` up. -/
def Memory.writeBytes : Memory → Nat → List Byte → Memory
  | m, _, [] => m
  | m, n, v :: vs => Memory.writeBytes (Memory.write m n v) (n + 1) vs

theorem Memory.read?_writeBytes (m : Memory) (n : Nat) (vs : List Byte) (k : Nat) :
    Memory.read? (Memory.writeBytes m n vs) k =
      if h : n ≤ k ∧ k - n < vs.length then some vs[k - n] else Memory.read? m k := by
  induction vs generalizing m n with
  | nil => simp [Memory.writeBytes]
  | cons v vs ih =>
    rw [Memory.writeBytes, ih, Memory.read?_write]
    rcases Nat.lt_trichotomy k n with hlt | rfl | hgt
    · have hbelow : ¬ n ≤ k := by omega
      have hbelow' : ¬ n + 1 ≤ k := by omega
      simp [hbelow, hbelow', hlt.ne]
    · simp
    · obtain ⟨j, rfl⟩ : ∃ j, k = n + (j + 1) := ⟨k - n - 1, by omega⟩
      have hindex : n + (j + 1) - (n + 1) = j := by omega
      simp [hindex]

/-- The lines `KEYB` for a list of bytes that fits take one step each (30_encoding.md R87). -/
theorem run_keyBytesFrom (vs : List Byte) {n : Nat} {s : State} {rest : List HostEvent}
    (hfit : ∀ m, s.bmax = .bytes m → n + vs.length ≤ m)
    (hp : s.pending = scriptAccesses s.base (keyBytesFrom n vs) ++ rest) (k : Nat) :
    core.run (k + vs.length) s = core.run k { s with key := Memory.writeBytes s.key n vs, pending := rest } := by
  induction vs generalizing n s with
  | nil =>
    have hrest : s.pending = rest := hp
    subst hrest
    rfl
  | cons v vs ih =>
    rw [List.length_cons] at hfit
    have hhead : ∀ m, s.bmax = .bytes m → n < m := fun m hm => by have := hfit m hm; omega
    have htail : ∀ m, s.bmax = .bytes m → n + 1 + vs.length ≤ m := fun m hm => by have := hfit m hm; omega
    rw [List.length_cons, ← Nat.add_assoc, run_succ_of_step (M := core) (step_of_write_key hp hhead)]
    exact ih htail rfl

/-- `LOADKEY` of a byte list that fits takes a step for each byte and one for the length (30_encoding.md R88). -/
theorem run_loadKey {bytes : List Byte} {s : State} {rest : List HostEvent}
    (hfit : ∀ m, s.bmax = .bytes m → bytes.length ≤ m)
    (hp : s.pending = scriptAccesses s.base (loadKey bytes) ++ rest) :
    core.run (bytes.length + 1) s = .next
      { s with
        key := Memory.writeBytes s.key 0 bytes
        klen := BitVec.ofNat 32 bytes.length
        pending := rest } := by
  have hsplit : s.pending = scriptAccesses s.base (keyBytesFrom 0 bytes) ++
      ((ScriptLine.setKlen (BitVec.ofNat 32 bytes.length)).access s.base :: rest) := by
    rw [hp, loadKey, scriptAccesses, List.map_append, List.append_assoc]
    rfl
  have hfit' : ∀ m, s.bmax = .bytes m → 0 + bytes.length ≤ m := by simpa using hfit
  rw [Nat.add_comm, run_keyBytesFrom bytes hfit' hsplit 1]
  exact run_succ_of_step (M := core) (step_of_write_word (r := .klen) rfl rfl nofun rfl) 0

/-! ### Accesses that have a meaning -/

theorem exists_reg_of_wellFormed {cap : Capacity} {base addr width : Nat} (v : BitVec width)
    (h : (HostEvent.write addr width v).wellFormed cap base = true) :
    ∃ r : HostReg, regAtAddress cap base addr = some r ∧ width = r.width := by
  rw [HostEvent.wellFormed] at h
  cases hreg : regAtAddress cap base addr with
  | none => simp [hreg] at h
  | some r =>
    rw [hreg] at h
    exact ⟨r, rfl, eq_of_beq h⟩

/-- An access that has a meaning is taken; a read has one where a write has (20_memory.md R54). -/
theorem hostEvent_next {e : HostEvent} {s : State} (h : e.wellFormed s.bmax s.base = true) :
    ∃ t, hostEvent e s = .next t := by
  cases e with
  | reset => exact ⟨_, rfl⟩
  | write addr width v =>
    obtain ⟨r, hreg, hwidth⟩ := exists_reg_of_wellFormed v h
    obtain ⟨t, ht⟩ := hostWrite_next r (v.setWidth 32) s
    exact ⟨t, ((accessRegister_of_mapped hreg).trans (if_pos hwidth)).trans ht⟩
  | read addr width =>
    obtain ⟨r, hreg, hwidth⟩ := exists_reg_of_wellFormed 0 h
    exact ⟨_, (accessRegister_of_mapped hreg).trans (if_pos hwidth)⟩

/-- A step of a well-behaved host goes on and leaves it well-behaved: the remaining accesses and the parameters they
are judged by are the same. -/
theorem step_hostWellBehaved {s : State} (h : s.hostWellBehaved) : ∃ t, step s = .next t ∧ t.hostWellBehaved := by
  cases hp : s.pending with
  | nil => exact ⟨s, step_of_no_pending hp, h⟩
  | cons e rest =>
    obtain ⟨t, ht⟩ : ∃ t, hostEvent e { s with pending := rest } = .next t :=
      hostEvent_next (h e (by simp [hp]))
    have hstep := (step_of_pending hp).trans ht
    obtain ⟨hbmax, hbase, hpending⟩ := (takes_of_step hp hstep).continues
    refine ⟨t, hstep, fun e' he' => ?_⟩
    rw [hbmax, hbase]
    rw [hpending] at he'
    exact h e' (by simp [hp, he'])

theorem run_hostWellBehaved (n : Nat) {s : State} (h : s.hostWellBehaved) : ∃ t, core.run n s = .next t := by
  induction n generalizing s with
  | zero => exact ⟨s, rfl⟩
  | succ n ih =>
    obtain ⟨t, ht, hwell⟩ := step_hostWellBehaved h
    obtain ⟨u, hu⟩ := ih hwell
    exact ⟨u, (run_succ_of_step (M := core) ht n).trans hu⟩

end Sys2Proof.Machine

namespace Sys2Proof.Proofs

open Sys2Proof.Machine

/-- Settles O32: a read changes the model's own fields alone, a data write stores what it stored before, and a second
`ENCRYPT` finds no subkeys (20_memory.md R56). -/
theorem onlyCommandWritesHaveSideEffects : Obligations.OnlyCommandWritesHaveSideEffects := by
  refine ⟨fun s t addr width rest hp ht => ?read, fun s t addr width value rest hp haddr ht => ?write,
    fun s t hs ht => ?command⟩
  case read =>
    obtain ⟨r, hreg, rfl, rfl⟩ := exists_reg_of_read hp ht
    refine ⟨rfl, fun r₁ u hreg₁ hsubkey hkey hu => ?_⟩
    obtain rfl : r = r₁ := Option.some.inj (hreg.symm.trans hreg₁)
    obtain ⟨r₂, hreg₂, -, rfl⟩ := exists_reg_of_read rfl hu
    obtain rfl : r = r₂ := Option.some.inj (hreg.symm.trans hreg₂)
    exact congrArg some (hostReadValue_eq_of_defined (s := { s with pending := rest }) _ _ _ hsubkey hkey)
  case write =>
    cases takes_of_step hp ht with
    | command => exact absurd rfl haddr
    | @write r v hr hpresent =>
      exact step_of_write_again hr hpresent rfl
  case command =>
    obtain rfl := Host.Outcome.next.inj ((exec_transform_of_svalid exec_encrypt hs).symm.trans ht)
    exact ⟨rfl, exec_transform_of_not_svalid (.inl rfl) rfl⟩

/-- Settles O33: the script's lines are byte writes from index 0 up and a write of their number (30_encoding.md R88). -/
theorem loadKeyScriptLoadsTheKey : Obligations.LoadKeyScriptLoadsTheKey := by
  intro s bytes rest hlen hfit hp
  refine ⟨_, run_loadKey hfit hp, Nat.mod_eq_of_lt hlen, fun n hn => ?_, fun n hn => ?_, rfl⟩
  · rw [Memory.read?_writeBytes, dif_pos ⟨n.zero_le, hn⟩]
    rfl
  · rw [Memory.read?_writeBytes, dif_neg (by omega)]

/-- Settles O44: an access that has a meaning is taken and leaves the rest of the accesses (20_memory.md R54). -/
theorem wellBehavedHostIsNeverStopped : Obligations.WellBehavedHostIsNeverStopped :=
  fun _ h => ⟨step_hostWellBehaved h, fun n => run_hostWellBehaved n h⟩

end Sys2Proof.Proofs
end

section
/-! PROOFS. The sequencer: where each phase of a command ends, and that the phases compose to the command. -/

namespace Sys2Proof.Machine

/-! ### Runs of element steps -/

theorem sequencerRun_add (m n : Nat) (s : State) : sequencerRun (m + n) s = sequencerRun n (sequencerRun m s) := by
  induction m generalizing s with
  | zero => rw [Nat.zero_add, sequencerRun]
  | succ m ih => rw [Nat.succ_add, sequencerRun, ih, sequencerRun]

theorem sequencerRun_succ (n : Nat) (s : State) : sequencerRun (n + 1) s = sequencerStep (sequencerRun n s) :=
  sequencerRun_add n 1 s

/-- An idle sequencer stays idle. -/
theorem sequencerRun_of_idle (n : Nat) {s : State} (h : s.seq = .idle) : sequencerRun n s = s := by
  have hstep : sequencerStep s = s := by simp [sequencerStep, h]
  induction n with
  | zero => rfl
  | succ n ih => rw [sequencerRun, hstep, ih]

/-- A sequencer that is busy after `n` steps was busy all along. -/
theorem sequencerRun_seq_ne_idle_of_le {m n : Nat} {s : State} (hle : m ≤ n) (h : (sequencerRun n s).seq ≠ .idle) :
    (sequencerRun m s).seq ≠ .idle := by
  intro hidle
  obtain ⟨k, rfl⟩ := Nat.exists_eq_add_of_le hle
  rw [sequencerRun_add, sequencerRun_of_idle k hidle] at h
  exact h hidle

/-- A run of `n` steps ends at a state: the sequencer is busy before the last of them. -/
def RunsTo (n : Nat) (s t : State) : Prop :=
  sequencerRun n s = t ∧ ∀ m < n, (sequencerRun m s).seq ≠ .idle

theorem runsTo_zero (s : State) : RunsTo 0 s s := ⟨rfl, nofun⟩

/-- A run that reaches a busy state goes on with one more step. -/
theorem RunsTo.succ {n : Nat} {s t u : State} (h : RunsTo n s t) (hbusy : t.seq ≠ .idle)
    (hstep : sequencerStep t = u) : RunsTo (n + 1) s u := by
  obtain ⟨rfl, -⟩ := h
  refine ⟨(sequencerRun_succ n s).trans hstep, fun m hm => ?_⟩
  exact sequencerRun_seq_ne_idle_of_le (Nat.le_of_lt_succ hm) hbusy

theorem RunsTo.trans {m n : Nat} {s t u : State} (h : RunsTo m s t) (h' : RunsTo n t u) : RunsTo (m + n) s u := by
  obtain ⟨rfl, hbusy⟩ := h
  obtain ⟨rfl, hbusy'⟩ := h'
  refine ⟨sequencerRun_add m n s, fun k hk => ?_⟩
  by_cases hlt : k < m
  · exact hbusy k hlt
  · obtain ⟨j, rfl⟩ := Nat.exists_eq_add_of_le (Nat.le_of_not_lt hlt)
    rw [sequencerRun_add]
    exact hbusy' j (by omega)

/-! ### The phases of a transform -/

section
variable (s : State) (x : Block)

/-- The state in a phase of a transform that has turned the block into `x`. -/
def inPhase (q : Seq) : State := { s.setBlock x with seq := q }

/-- The forward rounds, ascending (42_block.md R141). -/
theorem runsTo_forwardRounds {n : Nat} (h : n < 20) :
    RunsTo n (inPhase s x (.round .forward 1)) (inPhase s (forwardRounds s.subkeys n x) (.round .forward (n + 1))) := by
  induction n with
  | zero => exact runsTo_zero _
  | succ n ih =>
    have hlt : n + 1 < 20 := h
    refine (ih (Nat.lt_of_succ_lt h)).succ nofun ?_
    simp only [sequencerStep, inPhase, roundStep, if_pos hlt]
    rfl

theorem runsTo_encrypt :
    RunsTo 22 (inPhase s s.block (.pre .forward))
      (State.completeTransform (inPhase s (encryptBlock s.subkeys s.block) .idle)) := by
  have hpre : RunsTo 1 (inPhase s s.block (.pre .forward))
      (inPhase s (preWhiten s.subkeys s.block) (.round .forward 1)) := (runsTo_zero _).succ nofun rfl
  have hround := hpre.trans (runsTo_forwardRounds s (preWhiten s.subkeys s.block) (n := 19) (by decide))
  have hpost : RunsTo 21 (inPhase s s.block (.pre .forward))
      (inPhase s (forwardRounds s.subkeys 20 (preWhiten s.subkeys s.block)) (.post .forward)) :=
    hround.succ nofun rfl
  exact hpost.succ nofun rfl

/-- The inverse rounds from `n` down to 1 (42_block.md R142). -/
theorem runsTo_inverseRounds (n : Nat) :
    RunsTo (n + 1) (inPhase s x (.round .inverse (n + 1)))
      (inPhase s (inverseRounds s.subkeys (n + 1) x) (.post .inverse)) := by
  induction n generalizing x with
  | zero => exact (runsTo_zero _).succ nofun rfl
  | succ n ih =>
    have hfirst : RunsTo 1 (inPhase s x (.round .inverse (n + 2)))
        (inPhase s (inverseRound s.subkeys (n + 2) x) (.round .inverse (n + 1))) :=
      (runsTo_zero _).succ nofun rfl
    have hall := hfirst.trans (ih (inverseRound s.subkeys (n + 2) x))
    rwa [Nat.add_comm] at hall

theorem runsTo_decrypt :
    RunsTo 22 (inPhase s s.block (.pre .inverse))
      (State.completeTransform (inPhase s (decryptBlock s.subkeys s.block) .idle)) := by
  have hpre : RunsTo 1 (inPhase s s.block (.pre .inverse))
      (inPhase s (undoPostWhiten s.subkeys s.block) (.round .inverse 20)) := (runsTo_zero _).succ nofun rfl
  have hpost := hpre.trans (runsTo_inverseRounds s (undoPostWhiten s.subkeys s.block) 19)
  exact hpost.succ nofun rfl

/-- A transform command takes its 22 steps when it passes the test of `SVALID`, and none otherwise. -/
theorem runsTo_runTransform {s : State} {f : Subkeys → Block → Block} {dir : Direction} (hidle : s.seq = .idle)
    (hf : RunsTo 22 (inPhase s s.block (.pre dir)) (State.completeTransform (inPhase s (f s.subkeys s.block) .idle))) :
    RunsTo (if s.svalid then 1 + 20 + 1 else 0)
      (if s.svalid then { s with seq := .pre dir } else s.raiseFault .subkeysNotReady) (s.runTransform f) := by
  by_cases hs : s.svalid = true
  · have hend : inPhase s (f s.subkeys s.block) .idle = s.setBlock (f s.subkeys s.block) := by
      rw [← hidle]
      rfl
    rw [if_pos hs, if_pos hs, runTransform_of_svalid f hs, ← hend]
    exact hf
  · rw [if_neg hs, if_neg hs, runTransform_of_not_svalid f (Bool.eq_false_of_not_eq_true hs)]
    exact runsTo_zero _

end

/-! ### The phases of `KEYEXP` -/

/-- Packing word by word: after `k` words `L` is what `packKey` makes of `k` words (41_keysched.md R122). -/
theorem packElement_packKey (s : State) (k : Nat) :
    packElement (packKey s k) k (s.packedWord k) = packKey s (k + 1) := by
  have htake : (packKey s k).take k = (List.range k).map s.packedWord := by simp [packKey]
  have hdrop : (packKey s k).drop (k + 1) = s.keyWords.drop (k + 1) := by simp [packKey, List.drop_append]
  rw [packElement, htake, hdrop, packKey, List.range_succ]
  simp

/-- `S` when initialisation has filled the elements below `i` and the others are still those of `S`. -/
def initTable (S : Subkeys) (i : Nat) : Subkeys :=
  Vector.ofFn fun j => if j.val < i then initialSubkey j.val else subkeyAt S j.val

theorem subkeyAt_initTable (S : Subkeys) (i : Nat) {j : Nat} (hj : j < 44) :
    subkeyAt (initTable S i) j = if j < i then initialSubkey j else subkeyAt S j := by
  simp [subkeyAt_of_lt _ _ hj, initTable]

theorem setSubkey_initTable (S : Subkeys) (i : Nat) :
    setSubkey (initTable S i) i (initialSubkey i) = initTable S (i + 1) := by
  refine subkeys_ext fun j hj => ?_
  rw [subkeyAt_setSubkey _ _ _ _ hj, subkeyAt_initTable _ _ hj, subkeyAt_initTable _ _ hj]
  rcases Nat.lt_trichotomy j i with hlt | rfl | hgt
  · simp [hlt, hlt.ne, Nat.lt_succ_of_lt hlt]
  · simp
  · have hge : ¬ j < i + 1 := by omega
    simp [hgt.ne', hge, Nat.lt_asymm hgt]

theorem setSubkey_zero_p32 (S : Subkeys) : setSubkey S 0 Config.p32 = initTable S 1 := by
  have hnone : initTable S 0 = S := subkeys_ext fun j hj => (subkeyAt_initTable S 0 hj).trans (if_neg j.not_lt_zero)
  calc setSubkey S 0 Config.p32 = setSubkey (initTable S 0) 0 (initialSubkey 0) := by rw [hnone, initialSubkey]
    _ = initTable S 1 := setSubkey_initTable S 0

theorem initTable_subkeyCount (S : Subkeys) : initTable S 44 = initialSubkeys :=
  subkeys_ext fun j hj => by rw [subkeyAt_initTable S 44 hj, if_pos hj, subkeyAt_initialSubkeys j hj]

/-- One initialisation step's write, `S[i + 1] = S[i] + Q32` (41_keysched.md R123). -/
theorem setSubkey_initTable_add (S : Subkeys) {i : Nat} (h : i < 44) :
    setSubkey (initTable S (i + 1)) (i + 1) (add32 (subkeyAt (initTable S (i + 1)) i) Config.q32) =
      initTable S (i + 2) := by
  rw [subkeyAt_initTable S (i + 1) h, if_pos i.lt_succ_self]
  exact setSubkey_initTable S (i + 1)

section
variable (s : State)

/-- The state in the packing or initialisation phase of `KEYEXP`, with what `S` and `L` hold by then. -/
def inSchedule (S : Subkeys) (L : List Word) (q : Seq) : State :=
  { s with lw := BitVec.ofNat 32 (keyWordCount s.klen), subkeys := S, keyWords := L, seq := q }

/-- The state in the mixing phase of `KEYEXP` after `k` iterations. -/
def inMix (k : Nat) (m : Mix) : State :=
  (inSchedule s m.subkeys m.keyWords (.mix k m.i m.j)).setMixRegisters m

variable {s} (hok : s.keyLengthOk)
include hok

/-- `LW` holds the word count without a wrap. -/
theorem lw_toNat : (BitVec.ofNat 32 (keyWordCount s.klen)).toNat = keyWordCount s.klen :=
  Nat.mod_eq_of_lt (keyWordCount_bounds hok).2.1

theorem sequencerStep_pack (S : Subkeys) (L : List Word) {k : Nat} (hk : k + 1 < keyWordCount s.klen) :
    sequencerStep (inSchedule s S L (.pack k)) =
      inSchedule s S (packElement L k (s.packedWord k)) (.pack (k + 1)) :=
  if_pos ((lw_toNat hok).symm ▸ hk)

theorem sequencerStep_pack_last (S : Subkeys) (L : List Word) {k : Nat} (hk : k + 1 = keyWordCount s.klen) :
    sequencerStep (inSchedule s S L (.pack k)) =
      inSchedule s (setSubkey S 0 Config.p32) (packElement L k (s.packedWord k)) (.init 1) :=
  if_neg ((lw_toNat hok).symm ▸ hk.not_lt)

/-- A mixing step is an iteration, and the last of them completes the command (41_keysched.md R124, R125). -/
theorem sequencerStep_mix (k : Nat) (m : Mix) :
    sequencerStep (inMix s k m) =
      if k + 1 < mixCount (keyWordCount s.klen) then inMix s (k + 1) (mixIteration (keyWordCount s.klen) m)
      else State.completeKeyexp
        { inMix s (k + 1) (mixIteration (keyWordCount s.klen) m) with seq := .idle, draws := s.draws + 1 } := by
  rw [← lw_toNat hok]
  rfl

theorem sequencerStep_mix_last {k : Nat} (hk : k + 1 = mixCount (keyWordCount s.klen)) (hidle : s.seq = .idle) :
    sequencerStep (inMix s k (mixAfter s (keyWordCount s.klen) k)) = keyexpResult s := by
  have hlast : mixIteration (keyWordCount s.klen) (mixAfter s (keyWordCount s.klen) k) =
      expandKey s (keyWordCount s.klen) := by
    rw [← mixAfter_succ, hk]
    rfl
  rw [sequencerStep_mix hok, if_neg hk.not_lt, hlast, ← hidle]
  rfl

/-- The packing phase takes a step for each key word. -/
theorem runsTo_pack :
    RunsTo (keyWordCount s.klen) (inSchedule s s.subkeys s.keyWords (.pack 0))
      (inSchedule s (initTable s.subkeys 1) (packKey s (keyWordCount s.klen)) (.init 1)) := by
  obtain ⟨n, hn⟩ := Nat.exists_eq_add_one.mpr (keyWordCount_bounds hok).1
  have hwords : ∀ k ≤ n,
      RunsTo k (inSchedule s s.subkeys s.keyWords (.pack 0)) (inSchedule s s.subkeys (packKey s k) (.pack k)) := by
    intro k hk
    induction k with
    | zero => exact runsTo_zero _
    | succ k ih =>
      refine (ih (Nat.le_of_succ_le hk)).succ nofun ?_
      rw [sequencerStep_pack hok _ _ (by omega), packElement_packKey]
  have hall := (hwords n le_rfl).succ nofun (sequencerStep_pack_last hok _ _ hn.symm)
  rwa [packElement_packKey, setSubkey_zero_p32, ← hn] at hall

omit hok in
theorem sequencerStep_init (S : Subkeys) (L : List Word) {n : Nat} (hn : n + 1 < 43) :
    sequencerStep (inSchedule s (initTable S (n + 1)) L (.init (n + 1))) =
      inSchedule s (initTable S (n + 2)) L (.init (n + 2)) := by
  rw [← setSubkey_initTable_add S (by omega)]
  exact if_pos hn

omit hok in
/-- The initialisation phase takes 43 steps: `S[0]` is written by the last packing step. -/
theorem runsTo_init (S : Subkeys) (L : List Word) :
    RunsTo 43 (inSchedule s (initTable S 1) L (.init 1)) (inMix s 0 (mixStart initialSubkeys L)) := by
  have helements : ∀ n < 43,
      RunsTo n (inSchedule s (initTable S 1) L (.init 1)) (inSchedule s (initTable S (n + 1)) L (.init (n + 1))) := by
    intro n hn
    induction n with
    | zero => exact runsTo_zero _
    | succ n ih => exact (ih (Nat.lt_of_succ_lt hn)).succ nofun (sequencerStep_init S L hn)
  refine (helements 42 (by decide)).succ nofun ?_
  rw [← initTable_subkeyCount S, ← setSubkey_initTable_add S (i := 42) (by decide)]
  rfl

/-- The mixing phase takes a step for each iteration (41_keysched.md R124). -/
theorem runsTo_mix (hidle : s.seq = .idle) :
    RunsTo (mixCount (keyWordCount s.klen)) (inMix s 0 (mixStart initialSubkeys (packKey s (keyWordCount s.klen))))
      (keyexpResult s) := by
  obtain ⟨n, hn⟩ : ∃ n, mixCount (keyWordCount s.klen) = n + 1 :=
    Nat.exists_eq_add_one.mpr (by unfold mixCount; omega)
  have hiterations : ∀ k ≤ n, RunsTo k (inMix s 0 (mixStart initialSubkeys (packKey s (keyWordCount s.klen))))
      (inMix s k (mixAfter s (keyWordCount s.klen) k)) := by
    intro k hk
    induction k with
    | zero => exact runsTo_zero _
    | succ k ih =>
      refine (ih (Nat.le_of_succ_le hk)).succ nofun ?_
      rw [sequencerStep_mix hok, if_pos (by omega), mixAfter_succ]
  rw [hn]
  exact (hiterations n le_rfl).succ nofun (sequencerStep_mix_last hok hn.symm hidle)

theorem runsTo_keyexp (hidle : s.seq = .idle) :
    RunsTo (keyWordCount s.klen + 43 + mixCount (keyWordCount s.klen))
      (inSchedule s s.subkeys s.keyWords (.pack 0)) (keyexpResult s) :=
  ((runsTo_pack hok).trans (runsTo_init _ _)).trans (runsTo_mix hok hidle)

end

end Sys2Proof.Machine

namespace Sys2Proof.Proofs

open Sys2Proof.Machine

/-- Settles O46: the phases of a command end in the state that the command leaves, and the sequencer is busy before the
last of its steps (00_scope.md R10, 70_reset_and_hazards.md R199). -/
theorem sequencerRefinesTheCommands : Obligations.SequencerRefinesTheCommands := by
  intro c s hidle
  suffices h : ∃ t, exec c s = .next t ∧ RunsTo (commandSteps c s) (sequencerStart c s) t by
    obtain ⟨t, hexec, hrun, hbusy⟩ := h
    exact ⟨hrun ▸ hexec, hbusy⟩
  cases c with
  | keyexp =>
    cases hfault : keyLengthFault s with
    | some f =>
      refine ⟨_, exec_keyexp_of_fault hfault, ?_⟩
      simp only [commandSteps, sequencerStart, hfault]
      exact runsTo_zero _
    | none =>
      have hok := (keyLengthFault_eq_none_iff s).mp hfault
      refine ⟨_, exec_keyexp_of_keyLengthOk hok, ?_⟩
      simp only [commandSteps, sequencerStart, hfault]
      exact runsTo_keyexp hok hidle
  | encrypt => exact ⟨_, exec_encrypt s, runsTo_runTransform hidle (runsTo_encrypt s)⟩
  | decrypt => exact ⟨_, exec_decrypt s, runsTo_runTransform hidle (runsTo_decrypt s)⟩
  | rotl => exact ⟨_, rfl, runsTo_zero _⟩
  | rotr => exact ⟨_, rfl, runsTo_zero _⟩

end Sys2Proof.Proofs
end
